-- ==== Sys2Proof/Word.lean ====
section
/-! DEFINITION. The word and byte types of the block (R6 REG_W = 32, R7). -/

namespace Sys2Proof

/-- A register value or a command word: 32 bits (R6, R80). -/
abbrev Word := BitVec 32

/-- An unsigned 8-bit value (R7). -/
abbrev Byte := BitVec 8

end Sys2Proof
end

