-- ==== Sys2Proof/Config.lean ====
section
/-! DEFINITION. The sizes the source fixes (R5, R6), the implementation parameters (R6), and the free values. -/

namespace Sys2Proof.Config

/-- WT_LEN: bytes in a wavetable buffer (R5). -/
def wtLen : Nat := 2048

/-- GROUP_LEN: samples per group (R5). -/
def groupLen : Nat := 128

/-- N_CYCLES: selected groups 0, 2, …, 14 (R5). -/
def nCycles : Nat := 8

/-- PACK_LEN: bytes of a PackedBuffer (R5). -/
def packLen : Nat := 1032

/-- NIB_PACK_LEN: bytes of a nibblized PackedBuffer (R5). -/
def nibPackLen : Nat := 2064

/-- SOX: the SysEx start marker (R5). -/
def sox : Byte := 0xF0

/-- EOX: the SysEx end marker (R5). -/
def eox : Byte := 0xF7

/-- DEF_MFR_LEN (R5). -/
def defMfrLen : BitVec 5 := 3

/-- DEF_DEV_LEN (R5). -/
def defDevLen : BitVec 5 := 2

/-- DEF_CMD_LEN (R5). -/
def defCmdLen : BitVec 5 := 2

/-- HDR_CAP: capacity in bytes of each header array (R6). -/
def hdrCap : Nat := 16

/-- The byte a draw returns (R62, R71, R211): a free value, applied to the number of draws made before it.
It has no body: nothing about it can be proved (log 8). -/
opaque freeByte : Nat → Byte

/-- The 32-bit value a draw returns (R63, R210): a free value, as `freeByte` (log 8). -/
opaque freeWord : Nat → Word

/-- Whether an `MWR` above MEM_SIZE while BUSY = 1 sets VIOL: R62 and R71 differ, so it is a free value (log 10). -/
opaque freeBit : Nat → Bool

/-- The implementation parameters of R6 and R68, which a model takes as an argument.
They are data of the state, so a statement over all states holds for every value of them (log 4). -/
structure Params where
  /-- MEM_SIZE, 1 to 2^31 (R6, U2). -/
  memSize : Nat
  /-- RESET_MFR_ID (R6, R33, U1). -/
  resetMfrId : Vector Byte 3
  /-- RESET_DEV_ID (R6, R33, U1). -/
  resetDevId : Vector Byte 2
  /-- RESET_CMD_ID (R6, R33, U1). -/
  resetCmdId : Vector Byte 2
  /-- BASE_REG, the platform address of the register port; no rule reads it (R68, U11). -/
  baseReg : Nat
  /-- BASE_MEM, the platform address of the memory port; no rule reads it (R68, U11). -/
  baseMem : Nat
deriving DecidableEq, Repr

/-- The parameters `State.reset` takes: the reference MEM_SIZE of R6;
DESIGN CHOICE zero for every OPEN parameter (log 5, log 17). -/
def Params.reference : Params where
  memSize := 8192
  resetMfrId := #v[0, 0, 0]
  resetDevId := #v[0, 0]
  resetCmdId := #v[0, 0]
  baseReg := 0
  baseMem := 0

end Sys2Proof.Config
end

