-- ==== Sys2Proof/Syntax.lean ====
section
/-! DEFINITION. The instructions: the four commands of R81, one constructor for each row of the opcode table. -/

namespace Sys2Proof

/-- A command. No operand stands in the command word (R80): the operands are registers, latched at issue (R82). -/
inductive Instr where
  /-- Wavetable sample-group packer (R102). -/
  | pack
  /-- Nibble encoder (R121). -/
  | nibz
  /-- SysEx framer (R144). -/
  | frame
  /-- Pack, nibblize and frame in one command (R161). -/
  | pnf
deriving DecidableEq, Repr

end Sys2Proof
end

