-- ==== Sys2Proof/WellFormed.lean ====
section
/-! DEFINITION. Which instructions and parameters are well formed. (Which host accesses are, is `accessWellFormed` of
Machine/HostProgram.lean, R63: the block defines what a malformed one does, so it is a case of the step.) -/

namespace Sys2Proof

/-- A command has no operand (R80), so every term of `Instr` is well formed. -/
def Instr.wf : Instr → Bool
  | .pack => true
  | .nibz => true
  | .frame => true
  | .pnf => true

/-- 1 ≤ MEM_SIZE ≤ 2^31 (R6). -/
def Config.Params.wf (p : Config.Params) : Bool := decide (1 ≤ p.memSize) && decide (p.memSize ≤ 2 ^ 31)

end Sys2Proof
end

