-- ==== Sys2Proof/Decode.lean ====
section
/-! DEFINITION. The command word (R80, R81): its decoder, total over all words, rejecting by name (R83, R84), and the
encoder. -/

namespace Sys2Proof

/-- Why a command word is illegal (R83). Both are reported as IllegalCommand (R181). -/
inductive DecodeError where
  /-- RSV, bits 31:8, is not 0. -/
  | reservedBits
  /-- RSV is 0 and OP is none of 0x01 to 0x04. -/
  | unknownOpcode
deriving DecidableEq, Repr

/-- OP, bits 7:0 (R80). -/
def opField (w : Word) : BitVec 8 := w.extractLsb' 0 8

/-- RSV, bits 31:8 (R80). -/
def rsvField (w : Word) : BitVec 24 := w.extractLsb' 8 24

/-- The opcode assignment of R81. -/
def opcode : Instr → BitVec 8
  | .pack => 0x01
  | .nibz => 0x02
  | .frame => 0x03
  | .pnf => 0x04

/-- The decoder of R84: every word is one of the four commands of R81 or illegal under R83. -/
def decode (w : Word) : Except DecodeError Instr :=
  if rsvField w ≠ 0 then .error .reservedBits
  else if opField w = 0x01 then .ok .pack
  else if opField w = 0x02 then .ok .nibz
  else if opField w = 0x03 then .ok .frame
  else if opField w = 0x04 then .ok .pnf
  else .error .unknownOpcode

/-- The command word of an instruction: `zext_32(OP)` (R81, R89 `ISSUE`). -/
def encode (i : Instr) : Word := (opcode i).setWidth 32

/-- The command word that the bits `w` of a table row of `nbits` bits stand for: the bits above `nbits` are 0. -/
def tableWord (nbits w : Nat) : Word := BitVec.ofNat 32 (w % 2 ^ nbits)

/-- The instruction the decoder reads from the bits of a table row. A command word has 32 bits and no longer form
(R80, R84), so bits above 31 make no command. -/
def decodeTableWord (nbits w : Nat) : Option Instr :=
  if w % 2 ^ nbits < 2 ^ 32 then (decode (tableWord nbits w)).toOption else none

end Sys2Proof
end

