-- ==== Sys2Proof/Machine/HostProgram.lean ====
section
/-! DEFINITION. What the outside of the block does: the register names and offsets (R23), the host program and its accesses
(R88, R90), the pseudo-instructions (R89), and whose turn a step is (R20, R70). -/

namespace Sys2Proof.Machine

/-- The named registers of the register port (R23). -/
inductive Reg where
  | ctrl
  | status
  | cmd
  | srcAddr
  | srcLen
  | dstAddr
  | outLen
  | hdrLen
  | mfrId (j : Fin 4)
  | devId (j : Fin 4)
  | cmdId (j : Fin 4)
deriving DecidableEq, Repr

/-- The byte offset of a register (R23, R33). -/
def Reg.offset : Reg → Nat
  | .ctrl => 0x00
  | .status => 0x04
  | .cmd => 0x08
  | .srcAddr => 0x0C
  | .srcLen => 0x10
  | .dstAddr => 0x14
  | .outLen => 0x18
  | .hdrLen => 0x1C
  | .mfrId j => 0x20 + 4 * j.val
  | .devId j => 0x30 + 4 * j.val
  | .cmdId j => 0x40 + 4 * j.val

/-- Every register of R23, in offset order. -/
def Reg.all : List Reg :=
  [.ctrl, .status, .cmd, .srcAddr, .srcLen, .dstAddr, .outLen, .hdrLen,
   .mfrId 0, .mfrId 1, .mfrId 2, .mfrId 3, .devId 0, .devId 1, .devId 2, .devId 3,
   .cmdId 0, .cmdId 1, .cmdId 2, .cmdId 3]

/-- The register at an offset; none at a reserved offset (R34). -/
def Reg.ofOffset (o : Nat) : Option Reg := Reg.all.find? fun r => r.offset == o

/-- The registers whose write is dropped while BUSY = 1 (R39): all but STATUS and OUT_LEN. -/
def Reg.guarded : Reg → Bool
  | .status => false
  | .outLen => false
  | _ => true

/-- The width of a register-port access (R63). -/
inductive Width where
  | w8
  | w16
  | w32
deriving DecidableEq, Repr

/-- A register-port access is well formed only when it is 32 bits wide, its offset is a multiple of 4 and at most 0xFC
(R63). -/
def accessWellFormed (wd : Width) (o : Nat) : Bool := wd == .w32 && o % 4 == 0 && decide (o ≤ 0xFC)

/-- A location that the host can read: an offset of the register port or an address of the memory port (R90). -/
inductive Loc where
  | reg (o : Nat)
  | mem (a : Nat)
deriving DecidableEq, Repr

/-- One line of a host program (R88). -/
inductive HostOp where
  /-- Register-port write of `w` at offset `o`. -/
  | rwr (wd : Width) (o : Nat) (w : Word)
  /-- Register-port read at offset `o`. -/
  | rrd (wd : Width) (o : Nat)
  /-- Memory-port byte write. -/
  | mwr (a : Nat) (v : Byte)
  /-- Memory-port byte read. -/
  | mrd (a : Nat)
  /-- Host-side branch: go to line `target` if the value last read at `l`, masked, is not 0. -/
  | bnz (l : Loc) (mask : Word) (target : Nat)
deriving DecidableEq, Repr

/-- Whose step the next step is: one interleaving of host steps and engine steps (R70), and the reset input (R20). -/
inductive Turn where
  | host
  | engine
  | assertRst
  | deassertRst
deriving DecidableEq, Repr

/-- The port of an access (R90). -/
inductive Port where
  | R
  | M
deriving DecidableEq, Repr

/-- The direction of an access (R90). -/
inductive Dir where
  | W
  | R
deriving DecidableEq, Repr

/-- The tuple `(port, dir, location, data)` of R90; a read has no data. -/
structure AccessTuple where
  port : Port
  dir : Dir
  location : Nat
  data : Option Word
deriving DecidableEq, Repr

/-- The tuple of a host access (R90). The host-side branch is no access: the block never sees it (R88). -/
def HostOp.tuple : HostOp → Option AccessTuple
  | .rwr _ o w => some ⟨.R, .W, o, some w⟩
  | .rrd _ o => some ⟨.R, .R, o, none⟩
  | .mwr a v => some ⟨.M, .W, a, some (v.setWidth 32)⟩
  | .mrd a => some ⟨.M, .R, a, none⟩
  | .bnz _ _ _ => none

/-- `RWR <reg>, w` by the register's name (R88). -/
def HostOp.write (r : Reg) (w : Word) : HostOp := .rwr .w32 r.offset w

/-- `RRD <reg>` by the register's name (R88). -/
def HostOp.read (r : Reg) : HostOp := .rrd .w32 r.offset

/-- `ISSUE <mnemonic>` (R89). -/
def issueOps (i : Instr) : List HostOp := [.write .cmd (encode i)]

/-- `WAIT` (R89), placed at line `at_` of the program: its label is that line. -/
def waitOps (at_ : Nat) : List HostOp := [.read .status, .bnz (.reg Reg.status.offset) 1 at_]

/-- `SETOPS s, l, d` (R89). -/
def setOps (s l d : Word) : List HostOp := [.write .srcAddr s, .write .srcLen l, .write .dstAddr d]

/-- `FILL a, [b0, …]` (R89). -/
def fillOps (a : Nat) : List Byte → List HostOp
  | [] => []
  | b :: bs => .mwr a b :: fillOps (a + 1) bs

/-- `word_j(x)` of R89: bytes 4j to 4j+3 of `x`, padded with 0x00, the lower-numbered byte in the lower bits. -/
def headerWord (x : List Byte) (j : Nat) : Word :=
  let b (k : Nat) : Byte := (x[4 * j + k]?).getD 0
  b 3 ++ b 2 ++ b 1 ++ b 0

/-- SETHDR needs every list to have at most 16 bytes (R89). -/
def setHdrWellFormed (m d c : List Byte) : Bool :=
  decide (m.length ≤ 16) && decide (d.length ≤ 16) && decide (c.length ≤ 16)

/-- `SETHDR [m…], [d…], [c…]` (R89), for lists that are `setHdrWellFormed`. -/
def setHdrOps (m d c : List Byte) : List HostOp :=
  .write .hdrLen (BitVec.ofNat 32 (c.length <<< 16 ||| d.length <<< 8 ||| m.length)) ::
    ((List.finRange 4).map fun j => HostOp.write (.mfrId j) (headerWord m j.val)) ++
    ((List.finRange 4).map fun j => HostOp.write (.devId j) (headerWord d j.val)) ++
    ((List.finRange 4).map fun j => HostOp.write (.cmdId j) (headerWord c j.val))

end Sys2Proof.Machine
end

