-- ==== Sys2Proof/Machine/State.lean ====
section
/-! DEFINITION. The machine's state as plain data: every piece of state of INVENTORY.md, the reasons to stop, and the state
after power-up and reset (R41, R74). -/

namespace Sys2Proof.Machine

/-- Why the machine stops with a fault: never. A command error is a code in STATUS.ERR and the block keeps running (R180,
R190, R191); out-of-range and malformed host accesses have defined effects too (R62, R63). -/
inductive Fault where
deriving DecidableEq, Repr

/-- Why the machine refuses an instruction: never; every command word has a defined outcome (R83, R84). -/
inductive Refusal where
  /-- An instruction without a meaning, by its mnemonic; raised only by an arm of `exec`, and no arm does. Safe. -/
  | notModelled (mnemonic : String)
deriving DecidableEq, Repr

/-- CTRL (R24). -/
structure Ctrl where
  /-- Bit 0: the IRQ line follows DONE. -/
  ie : Bool
  /-- Bit 1: a nonstandard header or a high-bit interior byte is an error. -/
  strict : Bool
deriving DecidableEq, Repr

/-- The error codes of R180; 8 to 15 are never produced (R25, log 16). -/
inductive ErrCode where
  | ok
  | invalidInputSize
  | configurationError
  | headerCapacity
  | srcRange
  | dstRange
  | overlap
  | illegalCommand
deriving DecidableEq, Repr

/-- STATUS (R25). -/
structure Status where
  busy : Bool
  done : Bool
  err : ErrCode
  cfgw : Bool
  hib : Bool
  viol : Bool
deriving DecidableEq, Repr

/-- HDR_LEN (R32): the lengths of the three header byte groups. -/
structure HdrLen where
  mfrLen : BitVec 5
  devLen : BitVec 5
  cmdLen : BitVec 5
deriving DecidableEq, Repr

/-- A header byte array of HDR_CAP = 16 bytes (R33). -/
abbrev Header := Vector Byte 16

/-- The in-flight latch (R38), written at issue (R85). -/
structure Latch where
  op : BitVec 8
  rsv : BitVec 24
  src : Word
  len : Word
  dst : Word
  strict : Bool
  mlen : BitVec 5
  dlen : BitVec 5
  clen : BitVec 5
  mfr : Header
  dev : Header
  cmdid : Header
deriving DecidableEq, Repr

/-- MEM (R60): the bytes at listed addresses; an unlisted address reads as `Memory.unlisted`. -/
abbrev Memory := List Host.Cell

/-- What an address that is not listed reads as. DESIGN CHOICE (log 6): it is only how a memory is written down. The
power-up content is arbitrary (R74), so `State.powerUp` takes the whole memory as an argument. -/
def Memory.unlisted : Byte := 0

/-- The canonical form: addresses strictly rising, and no cell equal to what an unlisted address reads as. -/
abbrev Memory.wf (m : Memory) : Prop :=
  m.Pairwise (fun c d => c.1 < d.1) ∧ ∀ c ∈ m, c.2 ≠ Memory.unlisted

/-- The machine's state. -/
structure State where
  /-- The implementation parameters (R6, R68); no step changes them. -/
  params : Config.Params
  /-- CTRL (R24). -/
  ctrl : Ctrl
  /-- STATUS (R25). -/
  status : Status
  /-- SRC_ADDR (R28). -/
  srcAddr : Word
  /-- SRC_LEN (R29). -/
  srcLen : Word
  /-- DST_ADDR (R30). -/
  dstAddr : Word
  /-- OUT_LEN (R31). -/
  outLen : Word
  /-- HDR_LEN (R32). -/
  hdrLen : HdrLen
  /-- MFR_ID (R33). -/
  mfrId : Header
  /-- DEV_ID (R33). -/
  devId : Header
  /-- CMD_ID (R33). -/
  cmdId : Header
  /-- The in-flight latch (R38). -/
  latch : Latch
  /-- MEM (R37, R60). -/
  mem : Memory
  /-- The reset input RST (R20, R210): true while asserted. -/
  rst : Bool
  /-- The host program (R88). -/
  prog : List HostOp
  /-- The index of the next host access in the host program (R21). -/
  pc : Nat
  /-- Every value a port has returned to the host and where it was read, the latest first (R61, R63; log 9). -/
  reads : List (Loc × Word)
  /-- The model's own: the turns still to be taken, the interleaving of R70 and the LATENCY of R221 (log 2). -/
  sched : List Turn
  /-- The model's own: how many free values have been drawn (log 8). -/
  draws : Nat
deriving DecidableEq, Repr

/-- The reset value of MFR_ID: RESET_MFR_ID, then 0x00 (R33). -/
def resetMfr (p : Config.Params) : Header :=
  #v[p.resetMfrId[0], p.resetMfrId[1], p.resetMfrId[2], 0, 0, 0, 0, 0, 0, 0, 0, 0, 0, 0, 0, 0]

/-- The reset value of DEV_ID: RESET_DEV_ID, then 0x00 (R33). -/
def resetDev (p : Config.Params) : Header :=
  #v[p.resetDevId[0], p.resetDevId[1], 0, 0, 0, 0, 0, 0, 0, 0, 0, 0, 0, 0, 0, 0]

/-- The reset value of CMD_ID: RESET_CMD_ID, then 0x00 (R33). -/
def resetCmd (p : Config.Params) : Header :=
  #v[p.resetCmdId[0], p.resetCmdId[1], 0, 0, 0, 0, 0, 0, 0, 0, 0, 0, 0, 0, 0, 0]

/-- The reset value of CTRL (R24). -/
def Ctrl.reset : Ctrl := ⟨false, false⟩

/-- The reset value of STATUS (R25, R35). -/
def Status.reset : Status := ⟨false, false, .ok, false, false, false⟩

/-- The reset value of HDR_LEN: the source's default lengths 3, 2, 2 (R32). -/
def HdrLen.reset : HdrLen := ⟨Config.defMfrLen, Config.defDevLen, Config.defCmdLen⟩

/-- The latch before any issue: unspecified and unused (R41, U10). DESIGN CHOICE zeros (log 7). -/
def Latch.idle : Latch where
  op := 0
  rsv := 0
  src := 0
  len := 0
  dst := 0
  strict := false
  mlen := 0
  dlen := 0
  clen := 0
  mfr := #v[0, 0, 0, 0, 0, 0, 0, 0, 0, 0, 0, 0, 0, 0, 0, 0]
  dev := #v[0, 0, 0, 0, 0, 0, 0, 0, 0, 0, 0, 0, 0, 0, 0, 0]
  cmdid := #v[0, 0, 0, 0, 0, 0, 0, 0, 0, 0, 0, 0, 0, 0, 0, 0]

/-- The machine after power-up and reset, for any parameters and any power-up content of MEM (R41, R74, R212), with no
host program placed. -/
def State.powerUp (p : Config.Params) (m : Memory) : State where
  params := p
  ctrl := Ctrl.reset
  status := Status.reset
  srcAddr := 0
  srcLen := 0
  dstAddr := 0
  outLen := 0
  hdrLen := HdrLen.reset
  mfrId := resetMfr p
  devId := resetDev p
  cmdId := resetCmd p
  latch := Latch.idle
  mem := m
  rst := false
  prog := []
  pc := 0
  reads := []
  sched := []
  draws := 0

/-- The machine right after reset: `powerUp` with the reference parameters and with no cell of MEM listed
(DESIGN CHOICE: log 5, log 6). -/
def State.reset : State := State.powerUp Config.Params.reference []

end Sys2Proof.Machine
end

