-- ==== Sys2Proof/Machine/Flags.lean ====
section
/-! DEFINITION. The flags: the words of CTRL and STATUS (R24, R25), write-one-to-clear (R26), the IRQ line (R36), and the two
warnings CFGW and HIB (R142, R143). -/

namespace Sys2Proof.Machine

/-- The value of CTRL on the register port; reserved bits read 0 (R24). -/
def Ctrl.word (c : Ctrl) : Word := 0#30 ++ BitVec.ofBool c.strict ++ BitVec.ofBool c.ie

/-- What a write of `w` stores in CTRL; reserved bits are ignored (R24). -/
def Ctrl.ofWord (w : Word) : Ctrl := ⟨w.getLsbD 0, w.getLsbD 1⟩

/-- The number of an error code (R180). -/
def ErrCode.code : ErrCode → BitVec 4
  | .ok => 0
  | .invalidInputSize => 1
  | .configurationError => 2
  | .headerCapacity => 3
  | .srcRange => 4
  | .dstRange => 5
  | .overlap => 6
  | .illegalCommand => 7

/-- The value of STATUS on the register port; reserved bits read 0 (R25). -/
def Status.word (t : Status) : Word :=
  0#21 ++ BitVec.ofBool t.viol ++ BitVec.ofBool t.hib ++ BitVec.ofBool t.cfgw ++ t.err.code ++ 0#2 ++
    BitVec.ofBool t.done ++ BitVec.ofBool t.busy

/-- A host write of `w` to STATUS: bit 1 clears DONE, bit 10 clears VIOL, every other bit is ignored (R26). -/
def Status.writeOneToClear (t : Status) (w : Word) : Status :=
  { t with done := t.done && !w.getLsbD 1, viol := t.viol && !w.getLsbD 10 }

/-- STATUS at issue: BUSY is set; DONE, ERR, CFGW and HIB are cleared; VIOL is unchanged (R85). -/
def Status.issued (t : Status) : Status :=
  { busy := true, done := false, err := .ok, cfgw := false, hib := false, viol := t.viol }

/-- STATUS at completion with an error code and the two warnings; VIOL is unchanged (R87). -/
def Status.completed (t : Status) (code : ErrCode) (cfgw hib : Bool) : Status :=
  { busy := false, done := true, err := code, cfgw := cfgw, hib := hib, viol := t.viol }

/-- The level output `IRQ = STATUS.DONE & CTRL.IE` (R36). -/
def State.irq (s : State) : Bool := s.status.done && s.ctrl.ie

/-- `CfgW(L)`: the header lengths are not (3, 2, 2) (R142). -/
def cfgW (L : Latch) : Bool := (L.mlen, L.dlen, L.clen) != (Config.defMfrLen, Config.defDevLen, Config.defCmdLen)

/-- `HiB(out)`: some byte of the message other than its first and its last is ≥ 0x80 (R143). -/
def hiB (out : List Byte) : Bool := out.tail.dropLast.any fun b => decide (0x80 ≤ b.toNat)

end Sys2Proof.Machine
end

