-- ==== Sys2Proof/Machine/Operands.lean ====
section
/-! DEFINITION. The operands of a command: the words of HDR_LEN and the header arrays (R32, R33, R64), operand assembly at
issue (R82, R85), the framed header groups (R141), output lengths and the range and overlap checks (R86). -/

namespace Sys2Proof.Machine

/-- The value of HDR_LEN on the register port; reserved bits read 0 (R32). -/
def HdrLen.word (h : HdrLen) : Word := 0#11 ++ h.cmdLen ++ 0#3 ++ h.devLen ++ 0#3 ++ h.mfrLen

/-- What a write of `w` stores in HDR_LEN; reserved bits are ignored (R32). -/
def HdrLen.ofWord (w : Word) : HdrLen := ⟨w.extractLsb' 0 5, w.extractLsb' 8 5, w.extractLsb' 16 5⟩

/-- Register `j` of a header array: byte i stands at bits [8(i mod 4)+7 : 8(i mod 4)] of register i div 4 (R33, R64). -/
def Header.readWord (v : Header) (j : Fin 4) : Word :=
  v[4 * j.val + 3] ++ v[4 * j.val + 2] ++ v[4 * j.val + 1] ++ v[4 * j.val]

/-- A write of `w` to register `j` of a header array (R33). -/
def Header.writeWord (v : Header) (j : Fin 4) (w : Word) : Header :=
  (((v.set (4 * j.val) (w.extractLsb' 0 8)).set (4 * j.val + 1) (w.extractLsb' 8 8)).set (4 * j.val + 2)
    (w.extractLsb' 16 8)).set (4 * j.val + 3) (w.extractLsb' 24 8)

/-- Operand assembly at the issue of the command word `w` (R82, R85). -/
def State.latchOf (s : State) (w : Word) : Latch where
  op := opField w
  rsv := rsvField w
  src := s.srcAddr
  len := s.srcLen
  dst := s.dstAddr
  strict := s.ctrl.strict
  mlen := s.hdrLen.mfrLen
  dlen := s.hdrLen.devLen
  clen := s.hdrLen.cmdLen
  mfr := s.mfrId
  dev := s.devId
  cmdid := s.cmdId

/-- The command word that was latched. -/
def Latch.word (L : Latch) : Word := L.rsv ++ L.op

/-- The header group `L.mfr[0..L.mlen]` (R141). -/
def Latch.mfrBytes (L : Latch) : List Byte := L.mfr.toList.take L.mlen.toNat

/-- The header group `L.dev[0..L.dlen]` (R141). -/
def Latch.devBytes (L : Latch) : List Byte := L.dev.toList.take L.dlen.toNat

/-- The header group `L.cmdid[0..L.clen]` (R141). -/
def Latch.cmdBytes (L : Latch) : List Byte := L.cmdid.toList.take L.clen.toNat

/-- `mlen + dlen + clen`. -/
def Latch.headerLen (L : Latch) : Nat := L.mlen.toNat + L.dlen.toNat + L.clen.toNat

/-- `max(L.mlen, L.dlen, L.clen) > HDR_CAP` (R86, R182). -/
def Latch.overCapacity (L : Latch) : Bool :=
  decide (Config.hdrCap < max L.mlen.toNat (max L.dlen.toNat L.clen.toNat))

/-- `OutLen(L)` of a command (R86). -/
def outLenOf : Instr → Latch → Nat
  | .pack, _ => Config.packLen
  | .nibz, L => 2 * L.len.toNat
  | .frame, L => 1 + L.headerLen + L.len.toNat + 1
  | .pnf, L => 1 + L.headerLen + Config.nibPackLen + 1

/-- `Overlap(a, m, b, k)`: the ranges [a, a+m) and [b, b+k) share a byte (R86, R185). -/
def overlaps (a m b k : Nat) : Bool := decide (0 < m) && decide (0 < k) && decide (a < b + k) && decide (b < a + m)

/-- Both range checks pass for an output of `n` bytes in a MEM of `memSize` bytes, without wrap (R9, R183, R184). -/
def Latch.inRange (L : Latch) (memSize n : Nat) : Bool :=
  decide (L.src.toNat + L.len.toNat ≤ memSize) && decide (L.dst.toNat + n ≤ memSize)

/-- The three checks of R86 on the ranges, in the order of R189: SrcRange, DstRange, Overlap. -/
def Latch.rangeError (L : Latch) (memSize n : Nat) : Option ErrCode :=
  if memSize < L.src.toNat + L.len.toNat then some .srcRange
  else if memSize < L.dst.toNat + n then some .dstRange
  else if overlaps L.src.toNat L.len.toNat L.dst.toNat n then some .overlap
  else none

end Sys2Proof.Machine
end

