-- ==== Sys2Proof/Machine/Ops.lean ====
section
/-! DEFINITION. The named operations over MEM and registers: MEM (R10, R60), the register port (R23 to R34, R39, R42), the
memory port (R61, R62, R71), issue (R85), completion (R87) with the error outcome `raise` (R190), reset (R210 to R212), and
the host's step (R20, R88). -/

namespace Sys2Proof.Machine

/-! ### MEM -/

/-- The byte at an address. -/
def Memory.read : Memory → Nat → Byte
  | [], _ => Memory.unlisted
  | c :: m, a => if c.1 = a then c.2 else Memory.read m a

/-- `m` without a cell at `a`. -/
def Memory.erase (m : Memory) (a : Nat) : Memory := m.filter fun c => c.1 != a

/-- `m` with a cell for `a` before the first higher address. -/
def Memory.insert : Memory → Nat → Byte → Memory
  | [], a, v => [(a, v)]
  | c :: m, a, v => if a < c.1 then (a, v) :: c :: m else c :: Memory.insert m a v

/-- `MEM[a] <- v`, in canonical form. -/
def Memory.write (m : Memory) (a : Nat) (v : Byte) : Memory :=
  if v = Memory.unlisted then m.erase a else (m.erase a).insert a v

/-- `MemRead(a, n)` (R10): the n bytes at a, a+1, … -/
def Memory.readSeq (m : Memory) (a : Nat) : Nat → List Byte
  | 0 => []
  | n + 1 => m.read a :: Memory.readSeq m (a + 1) n

/-- `MemWrite(a, len(v), v)` (R10): byte i of `v` goes to a + i. -/
def Memory.writeSeq (m : Memory) (a : Nat) : List Byte → Memory
  | [] => m
  | b :: bs => (m.write a b).writeSeq (a + 1) bs

/-! ### Free values and the values the host reads -/

/-- A port returns `v`, read at `l`, to the host. -/
def State.logRead (s : State) (l : Loc) (v : Word) : State := { s with reads := (l, v) :: s.reads }

/-- `n` free values have been drawn (log 8). -/
def State.drawn (s : State) (n : Nat) : State := { s with draws := s.draws + n }

/-- A register-port read that returns an unspecified 32-bit value (R63, R210). -/
def State.drawWord (s : State) (l : Loc) : State := (s.logRead l (Config.freeWord s.draws)).drawn 1

/-- A memory-port read that returns an unspecified byte (R62, R71, R210). -/
def State.drawByte (s : State) (l : Loc) : State :=
  (s.logRead l ((Config.freeByte s.draws).setWidth 32)).drawn 1

/-- The value last read at a location. -/
def lastRead : List (Loc × Word) → Loc → Option Word
  | [], _ => none
  | r :: rs, l => if r.1 = l then some r.2 else lastRead rs l

/-! ### Issue -/

/-- Issue of the command word `w` (R85): the latch is written, BUSY is set, the results of the last command are cleared.
No check is made. -/
def State.issue (s : State) (w : Word) : State :=
  { s with latch := s.latchOf w, status := s.status.issued, outLen := 0 }

/-! ### The register port -/

/-- The value of a register; a read has no side effect (R42). CMD has no storage and reads 0 (R27). -/
def State.readReg (s : State) : Reg → Word
  | .ctrl => s.ctrl.word
  | .status => s.status.word
  | .cmd => 0
  | .srcAddr => s.srcAddr
  | .srcLen => s.srcLen
  | .dstAddr => s.dstAddr
  | .outLen => s.outLen
  | .hdrLen => s.hdrLen.word
  | .mfrId j => Header.readWord s.mfrId j
  | .devId j => Header.readWord s.devId j
  | .cmdId j => Header.readWord s.cmdId j

/-- A write of a register that is not dropped (R24 to R33). OUT_LEN ignores it (R31); a CMD write issues (R27). -/
def State.storeReg (s : State) (w : Word) : Reg → State
  | .ctrl => { s with ctrl := Ctrl.ofWord w }
  | .status => { s with status := s.status.writeOneToClear w }
  | .cmd => s.issue w
  | .srcAddr => { s with srcAddr := w }
  | .srcLen => { s with srcLen := w }
  | .dstAddr => { s with dstAddr := w }
  | .outLen => s
  | .hdrLen => { s with hdrLen := HdrLen.ofWord w }
  | .mfrId j => { s with mfrId := Header.writeWord s.mfrId j w }
  | .devId j => { s with devId := Header.writeWord s.devId j w }
  | .cmdId j => { s with cmdId := Header.writeWord s.cmdId j w }

/-- A dropped write sets the sticky bit VIOL (R39, R71, R188). -/
def State.violate (s : State) : State := { s with status := { s.status with viol := true } }

/-- A dropped write that may or may not set VIOL: an `MWR` above MEM_SIZE while BUSY = 1 (log 10). -/
def State.maybeViolate (s : State) : State :=
  { s with status := { s.status with viol := s.status.viol || Config.freeBit s.draws }, draws := s.draws + 1 }

/-- A register write, subject to R39: while BUSY = 1 the write of a guarded register is dropped and sets VIOL. -/
def State.writeReg (s : State) (r : Reg) (w : Word) : State :=
  if s.status.busy && r.guarded then s.violate else s.storeReg w r

/-- A read at an offset; a reserved offset reads 0 (R34). -/
def State.readOffset (s : State) (o : Nat) : Word :=
  match Reg.ofOffset o with
  | some r => s.readReg r
  | none => 0

/-- A write at an offset; a reserved offset ignores it and sets no bit (R34). -/
def State.writeOffset (s : State) (o : Nat) (w : Word) : State :=
  match Reg.ofOffset o with
  | some r => s.writeReg r w
  | none => s

/-- `RWR o, w`: no effect while RST is asserted (R210) or when the access is malformed (R63). -/
def State.portWrite (s : State) (wd : Width) (o : Nat) (w : Word) : State :=
  if s.rst then s else if accessWellFormed wd o then s.writeOffset o w else s

/-- `RRD o`: a draw while RST is asserted (R210) or when the access is malformed (R63), else the register (R42). -/
def State.portRead (s : State) (wd : Width) (o : Nat) : State :=
  if s.rst then s.drawWord (.reg o)
  else if accessWellFormed wd o then s.logRead (.reg o) (s.readOffset o)
  else s.drawWord (.reg o)

/-! ### The memory port -/

/-- `MWR a, v`: no effect while RST is asserted (R210); dropped with VIOL while BUSY = 1 (R71); no effect above MEM_SIZE
(R62); else MEM[a] <- v (R61). -/
def State.memWrite (s : State) (a : Nat) (v : Byte) : State :=
  if s.rst then s
  else if s.status.busy then (if a < s.params.memSize then s.violate else s.maybeViolate)
  else if a < s.params.memSize then { s with mem := s.mem.write a v }
  else s

/-- `MRD a`: a draw while RST is asserted (R210), while BUSY = 1 (R71), and above MEM_SIZE (R62); else MEM[a] (R61). -/
def State.memRead (s : State) (a : Nat) : State :=
  if s.rst || s.status.busy || decide (s.params.memSize ≤ a) then s.drawByte (.mem a)
  else s.logRead (.mem a) ((s.mem.read a).setWidth 32)

/-! ### Completion and the error outcome -/

/-- What `Execute(L)` returns (R86): `(code, n, out, cfgw, hib)`. -/
structure Result where
  code : ErrCode
  n : Nat
  out : List Byte
  cfgw : Bool
  hib : Bool
deriving DecidableEq, Repr

/-- `return (code, 0, [], 0, 0)`: an error found before the message is built (R86). -/
def Result.error (code : ErrCode) : Result := ⟨code, 0, [], false, false⟩

/-- `raise` (R10, R190), the error outcome of every command: no MEM byte is written, OUT_LEN is 0, STATUS reports the code
and the warnings, BUSY is 0 and DONE is 1. There is no mode, no vector and no handler, and no return from it (R191). -/
def State.raise (s : State) (code : ErrCode) (cfgw hib : Bool) : State :=
  { s with outLen := 0, status := s.status.completed code cfgw hib }

/-- Successful completion (R87): the whole output is written at once and OUT_LEN is its length. -/
def State.commit (s : State) (n : Nat) (out : List Byte) (cfgw hib : Bool) : State :=
  { s with mem := s.mem.writeSeq s.latch.dst.toNat out, outLen := BitVec.ofNat 32 n,
           status := s.status.completed .ok cfgw hib }

/-- The completion step (R87), from what `Execute(L)` returned. -/
def State.complete (s : State) (r : Result) : State :=
  if r.code = .ok then s.commit r.n r.out r.cfgw r.hib else s.raise r.code r.cfgw r.hib

/-- `MemRead(L.src, L.len)`: the source bytes of the latched command. -/
def State.source (s : State) : List Byte := s.mem.readSeq s.latch.src.toNat s.latch.len.toNat

/-- The end of `Execute(L)` for a framed message (R86, R187): the warnings, and ConfigurationError when STRICT = 1. -/
def framed (L : Latch) (n : Nat) (out : List Byte) : Result :=
  if L.strict && (cfgW L || hiB out) then ⟨.configurationError, 0, [], cfgW L, hiB out⟩
  else ⟨.ok, n, out, cfgW L, hiB out⟩

/-! ### Reset -/

/-- Every register takes its reset value (R41, R210). The latch is unspecified and is left as it is (log 7). -/
def State.resetRegs (s : State) : State :=
  { s with ctrl := Ctrl.reset, status := Status.reset, srcAddr := 0, srcLen := 0, dstAddr := 0, outLen := 0,
           hdrLen := HdrLen.reset, mfrId := resetMfr s.params, devId := resetDev s.params,
           cmdId := resetCmd s.params }

/-- The length of the output range that a reset leaves unspecified (R211): the command's OutLen if its range checks pass;
none for an illegal word, which has no OutLen (log 12). -/
def State.abandonedLen (s : State) : Nat :=
  match decode s.latch.word with
  | .ok i => if s.latch.inRange s.params.memSize (outLenOf i s.latch) then outLenOf i s.latch else 0
  | .error _ => 0

/-- The command in flight is abandoned: each byte of its output range holds a draw (R211). -/
def State.abandon (s : State) : State :=
  { s with
    mem := s.mem.writeSeq s.latch.dst.toNat
      ((List.range s.abandonedLen).map fun i => Config.freeByte (s.draws + i)),
    draws := s.draws + s.abandonedLen }

/-- RST is asserted (R210, R211). -/
def State.assertRst (s : State) : State :=
  { (if s.status.busy then s.abandon else s).resetRegs with rst := true }

/-- RST is deasserted: at this step too every register takes its reset value (R210). Nothing happens if RST is not
asserted (log 13). -/
def State.deassertRst (s : State) : State := if s.rst then { s.resetRegs with rst := false } else s

/-! ### The host's step -/

/-- The host goes on to its next line (R21). -/
def State.advance (s : State) : State := { s with pc := s.pc + 1 }

/-- The host-side branch on a value it has read (R88). -/
def State.branchOn (s : State) (v mask : Word) (target : Nat) : State :=
  if v &&& mask ≠ 0 then { s with pc := target } else s.advance

/-- `BNZ` (R88): it tests the value last read at `l`; a location never read gives a free value (log 15). -/
def State.branch (s : State) (l : Loc) (mask : Word) (target : Nat) : State :=
  match lastRead s.reads l with
  | some v => s.branchOn v mask target
  | none => (s.drawn 1).branchOn (Config.freeWord s.draws) mask target

/-- One line of the host program (R61, R63, R88). -/
def State.hostOp (s : State) : HostOp → State
  | .rwr wd o w => (s.portWrite wd o w).advance
  | .rrd wd o => (s.portRead wd o).advance
  | .mwr a v => (s.memWrite a v).advance
  | .mrd a => (s.memRead a).advance
  | .bnz l mask target => s.branch l mask target

/-- The host's step: the access at the pc (R21); after the last line the host makes no access (log 3). -/
def State.hostStep (s : State) : State :=
  match s.prog[s.pc]? with
  | some op => s.hostOp op
  | none => s

/-! ### Turns -/

/-- Whose step is next: the head of the schedule; with none left, the engine while BUSY = 1 and else the host (log 2). -/
def State.turn (s : State) : Turn :=
  match s.sched with
  | t :: _ => t
  | [] => if s.status.busy then .engine else .host

/-- The state once its next turn is taken off the schedule. -/
def State.popTurn (s : State) : State := { s with sched := s.sched.tail }

end Sys2Proof.Machine
end

