-- ==== Sys2Proof/Machine/Framer.lean ====
section
/-! DEFINITION. FRAME, the SysEx framer (42_framer.md). -/

namespace Sys2Proof.Machine

/-- `BuildMessage(m, d, c, p)` (R140): every byte is copied unchanged. -/
def buildMessage (m d c p : List Byte) : List Byte := Config.sox :: (m ++ d ++ c ++ p ++ [Config.eox])

/-- The message with the framed header groups of a latch (R141). -/
def Latch.message (L : Latch) (p : List Byte) : List Byte := buildMessage L.mfrBytes L.devBytes L.cmdBytes p

/-- FRAME's checks and output (R144). -/
def frameResult (s : State) : Result :=
  if s.latch.overCapacity then .error .headerCapacity
  else
    let n := 2 + s.latch.headerLen + s.latch.len.toNat
    match s.latch.rangeError s.params.memSize n with
    | some e => .error e
    | none => framed s.latch n (s.latch.message s.source)

/-- The meaning of FRAME: its completion step (R87, R144). -/
def execFrame (s : State) : Host.Outcome State Fault Refusal := .next (s.complete (frameResult s))

end Sys2Proof.Machine
end

