-- ==== Sys2Proof/Machine/Nibble.lean ====
section
/-! DEFINITION. NIBZ, the nibble encoder (41_nibble.md). -/

namespace Sys2Proof.Machine

/-- The two nibbles of a byte, the low one first (R120, R64). -/
def nibbles (b : Byte) : List Byte := [b &&& 0x0F#8, (b >>> 4) &&& 0x0F#8]

/-- `Nibblize(S)` (R120). -/
def nibblize (S : List Byte) : List Byte := S.flatMap nibbles

/-- NIBZ's checks and output (R121). -/
def nibzResult (s : State) : Result :=
  match s.latch.rangeError s.params.memSize (2 * s.latch.len.toNat) with
  | some e => .error e
  | none => ⟨.ok, 2 * s.latch.len.toNat, nibblize s.source, false, false⟩

/-- The meaning of NIBZ: its completion step (R87, R121). -/
def execNibz (s : State) : Host.Outcome State Fault Refusal := .next (s.complete (nibzResult s))

end Sys2Proof.Machine
end

