-- ==== Sys2Proof/Machine/Packer.lean ====
section
/-! DEFINITION. PACK, the wavetable sample-group packer (40_packer.md). -/

namespace Sys2Proof.Machine

/-- One cycle: group 2k of the buffer, closed by its own first sample (R100). -/
def cycle (buf : List Byte) (k : Nat) : List Byte :=
  let g := (buf.drop (2 * Config.groupLen * k)).take Config.groupLen
  g ++ g.take 1

/-- `Pack(buf)` (R100): the eight cycles in order. -/
def pack (buf : List Byte) : List Byte := (List.range Config.nCycles).flatMap (cycle buf)

/-- PACK's checks and output (R102). -/
def packResult (s : State) : Result :=
  if s.latch.len.toNat ≠ Config.wtLen then .error .invalidInputSize
  else match s.latch.rangeError s.params.memSize Config.packLen with
    | some e => .error e
    | none => ⟨.ok, Config.packLen, pack s.source, false, false⟩

/-- The meaning of PACK: its completion step (R87, R102). -/
def execPack (s : State) : Host.Outcome State Fault Refusal := .next (s.complete (packResult s))

end Sys2Proof.Machine
end

