-- ==== Sys2Proof/Machine/Pipeline.lean ====
section
/-! DEFINITION. PNF, the fused pack, nibblize and frame command (43_pipeline.md). -/

namespace Sys2Proof.Machine

/-- PNF's checks and output (R160, R161). The packed buffer and the payload are written nowhere. -/
def pnfResult (s : State) : Result :=
  if s.latch.overCapacity then .error .headerCapacity
  else if s.latch.len.toNat ≠ Config.wtLen then .error .invalidInputSize
  else
    let n := 2 + Config.nibPackLen + s.latch.headerLen
    match s.latch.rangeError s.params.memSize n with
    | some e => .error e
    | none => framed s.latch n (s.latch.message (nibblize (pack s.source)))

/-- The meaning of PNF: its completion step (R87, R161). -/
def execPnf (s : State) : Host.Outcome State Fault Refusal := .next (s.complete (pnfResult s))

end Sys2Proof.Machine
end

