-- ==== Sys2Proof/Machine/Dispatch.lean ====
section
/-! DEFINITION. One arm for each instruction: the engine's completion step of the latched command (R20, R87). -/

namespace Sys2Proof.Machine

def exec (i : Instr) (s : State) : Host.Outcome State Fault Refusal :=
  match i with
  | .pack => Sys2Proof.Machine.execPack s
  | .nibz => Sys2Proof.Machine.execNibz s
  | .frame => Sys2Proof.Machine.execFrame s
  | .pnf => Sys2Proof.Machine.execPnf s

end Sys2Proof.Machine
end

