-- ==== Sys2Proof/Machine/Engine.lean ====
section
/-! DEFINITION. The engine (R20, R40): it takes the latched command word, decodes it, and completes the command. -/

namespace Sys2Proof.Machine

/-- The engine's one step for the latched command (R87): an illegal word completes with IllegalCommand (R83, R181), every
other word runs its instruction. -/
def completeLatched (s : State) : Host.Outcome State Fault Refusal :=
  match decode s.latch.word with
  | .ok i => exec i s
  | .error _ => .next (s.complete (.error .illegalCommand))

/-- The engine's turn: with BUSY = 0 it has no step (R40), and the turn passes without effect (log 13). -/
def engineStep (s : State) : Host.Outcome State Fault Refusal :=
  if s.status.busy then completeLatched s else .next s

end Sys2Proof.Machine
end

