-- ==== Sys2Proof/Machine/Step.lean ====
section
/-! DEFINITION. One step of the machine: the next turn of the interleaving of host, engine and reset input (R20, R70), and
where a command word is placed so that the next step runs it. -/

namespace Sys2Proof.Machine

/-- One step (R70). -/
def step (s : State) : Host.Outcome State Fault Refusal :=
  match s.turn with
  | .host => .next s.popTurn.hostStep
  | .engine => engineStep s.popTurn
  | .assertRst => .next s.popTurn.assertRst
  | .deassertRst => .next s.popTurn.deassertRst

/-- `s` with the command word of a table row in flight and the engine's turn next: the block has no instruction fetch
(R73), so a word reaches the engine by an issue (R85), here with no host step before its completion (R221; log 1). -/
def State.withFetchWord (s : State) (nbits w : Nat) : State :=
  { s.issue (tableWord nbits w) with rst := false, sched := .engine :: s.sched }

end Sys2Proof.Machine
end

