-- ==== Sys2Proof/Machine/Execute.lean ====
section
/-! DEFINITION. `Execute(L)` of R86 as the one function the spec writes, over the opcode field of the latch. The step runs
each command from its own rule (R102, R121, R144, R161); statements say that the two agree. -/

namespace Sys2Proof.Machine

/-- `OutLen(L)` (R86). -/
def specOutLen (L : Latch) : Nat :=
  if L.op = 0x01 then 1032
  else if L.op = 0x02 then 2 * L.len.toNat
  else if L.op = 0x03 then 1 + L.mlen.toNat + L.dlen.toNat + L.clen.toNat + L.len.toNat + 1
  else 1 + L.mlen.toNat + L.dlen.toNat + L.clen.toNat + 2064 + 1

/-- `Compute(L, inp)` (R86). -/
def specCompute (L : Latch) (inp : List Byte) : List Byte :=
  if L.op = 0x01 then pack inp
  else if L.op = 0x02 then nibblize inp
  else
    let payload := if L.op = 0x03 then inp else nibblize (pack inp)
    buildMessage (L.mfr.toList.take L.mlen.toNat) (L.dev.toList.take L.dlen.toNat)
      (L.cmdid.toList.take L.clen.toNat) payload

/-- `Execute(L)` (R86) over a MEM of `memSize` bytes, its checks in the order of R189. -/
def specExecute (memSize : Nat) (m : Memory) (L : Latch) : Result :=
  let isFramed := L.op = 0x03 ∨ L.op = 0x04
  if L.rsv ≠ 0 ∨ ¬(L.op = 0x01 ∨ L.op = 0x02 ∨ L.op = 0x03 ∨ L.op = 0x04) then ⟨.illegalCommand, 0, [], false, false⟩
  else if isFramed ∧ 16 < max (max L.mlen.toNat L.dlen.toNat) L.clen.toNat then ⟨.headerCapacity, 0, [], false, false⟩
  else if (L.op = 0x01 ∨ L.op = 0x04) ∧ L.len.toNat ≠ 2048 then ⟨.invalidInputSize, 0, [], false, false⟩
  else if L.src.toNat + L.len.toNat > memSize then ⟨.srcRange, 0, [], false, false⟩
  else
    let n := specOutLen L
    if L.dst.toNat + n > memSize then ⟨.dstRange, 0, [], false, false⟩
    else if overlaps L.src.toNat L.len.toNat L.dst.toNat n then ⟨.overlap, 0, [], false, false⟩
    else
      let out := specCompute L (m.readSeq L.src.toNat L.len.toNat)
      let cfgw := decide isFramed && cfgW L
      let hib := decide isFramed && hiB out
      if isFramed ∧ L.strict = true ∧ (cfgw = true ∨ hib = true) then ⟨.configurationError, 0, [], cfgw, hib⟩
      else ⟨.ok, n, out, cfgw, hib⟩

end Sys2Proof.Machine
end

