-- ==== Sys2Proof/Safety.lean ====
section
/-! DEFINITION. The terms in which claims about the machine are made: the reset table (R41), the invariant of every step, the
outcome of a command as a whole state, and one command issued and completed. -/

namespace Sys2Proof.Machine

/-- The reset table of R41: every register at its reset value, and the IRQ line at 0. -/
structure State.AtResetValues (s : State) : Prop where
  ctrl : s.ctrl.word = 0
  status : s.status.word = 0
  srcAddr : s.srcAddr = 0
  srcLen : s.srcLen = 0
  dstAddr : s.dstAddr = 0
  outLen : s.outLen = 0
  hdrLen : s.hdrLen.word = 0x00020203
  mfrId : s.mfrId.toList = s.params.resetMfrId.toList ++ List.replicate 13 0
  devId : s.devId.toList = s.params.resetDevId.toList ++ List.replicate 14 0
  cmdId : s.cmdId.toList = s.params.resetCmdId.toList ++ List.replicate 14 0
  irq : s.irq = false

/-- The invariant that every step keeps. -/
structure State.Inv (s : State) : Prop where
  /-- 1 ≤ MEM_SIZE ≤ 2^31 (R6). -/
  params : s.params.wf = true
  /-- MEM is in canonical form. -/
  memCanonical : s.mem.wf
  /-- MEM holds the addresses 0 to MEM_SIZE - 1 only (R60). -/
  memInRange : ∀ c ∈ s.mem, c.1 < s.params.memSize
  /-- OUT_LEN ≤ MEM_SIZE (R31). -/
  outLenBound : s.outLen.toNat ≤ s.params.memSize
  /-- An error leaves OUT_LEN at 0 (R31, R190). -/
  errorNoOutput : s.status.err ≠ .ok → s.outLen = 0
  /-- CFGW and HIB are 1 only after success or ConfigurationError (R86, R190). -/
  warningsOnlyOnMessages : (s.status.cfgw || s.status.hib) = true → s.status.err = .ok ∨ s.status.err = .configurationError
  /-- ConfigurationError reports a reason: CFGW or HIB (R187). -/
  configurationErrorHasCause : s.status.err = .configurationError → (s.status.cfgw || s.status.hib) = true
  /-- While a command is in flight the results of the last one are cleared (R85). -/
  busyCleared : s.status.busy = true →
    s.status.done = false ∧ s.status.err = .ok ∧ s.status.cfgw = false ∧ s.status.hib = false ∧ s.outLen = 0
  /-- While a command is in flight the latched operands equal the live registers (R38). -/
  latchMirrors : s.status.busy = true → s.latch = s.latchOf s.latch.word
  /-- While RST is asserted every register holds its reset value (R210). -/
  resetHeld : s.rst = true → s.AtResetValues

/-- The state after a command that ended with an error code: no MEM byte, OUT_LEN 0, STATUS, nothing else (R190). -/
def State.errorState (s : State) (code : ErrCode) (cfgw hib : Bool) : State :=
  { s with outLen := 0, status := ⟨false, true, code, cfgw, hib, s.status.viol⟩ }

/-- The state after a command that succeeded, its MEM and its output length given (R87). -/
def State.successState (s : State) (m : Memory) (n : Nat) (cfgw hib : Bool) : State :=
  { s with mem := m, outLen := BitVec.ofNat 32 n, status := ⟨false, true, .ok, cfgw, hib, s.status.viol⟩ }

/-- Both ranges lie in MEM and share no byte, for an output of `n` bytes (R183 to R185). -/
abbrev State.RangesPass (s : State) (n : Nat) : Prop :=
  s.latch.src.toNat + s.latch.len.toNat ≤ s.params.memSize ∧ s.latch.dst.toNat + n ≤ s.params.memSize ∧
    (s.latch.len.toNat = 0 ∨ n = 0 ∨ s.latch.dst.toNat + n ≤ s.latch.src.toNat ∨
      s.latch.src.toNat + s.latch.len.toNat ≤ s.latch.dst.toNat)

/-- The three range errors of a command with `n` bytes of output, in the order of R189: SrcRange (R183), DstRange (R184),
Overlap (R185). -/
def RangeErrors (i : Instr) (s : State) (n : Nat) : Prop :=
  (s.params.memSize < s.latch.src.toNat + s.latch.len.toNat →
    exec i s = .next (s.errorState .srcRange false false)) ∧
  (s.latch.src.toNat + s.latch.len.toNat ≤ s.params.memSize → s.params.memSize < s.latch.dst.toNat + n →
    exec i s = .next (s.errorState .dstRange false false)) ∧
  (s.latch.src.toNat + s.latch.len.toNat ≤ s.params.memSize → s.latch.dst.toNat + n ≤ s.params.memSize →
    0 < s.latch.len.toNat → 0 < n → s.latch.src.toNat < s.latch.dst.toNat + n →
    s.latch.dst.toNat < s.latch.src.toNat + s.latch.len.toNat →
    exec i s = .next (s.errorState .overlap false false))

/-- `exec i` succeeds with `n` output bytes `byte 0, byte 1, …` at DST_ADDR, every other byte of MEM and all else as R87
says. -/
def Writes (i : Instr) (s : State) (n : Nat) (byte : Nat → Byte) (cfgw hib : Bool) : Prop :=
  ∃ m : Memory, exec i s = .next (s.successState m n cfgw hib) ∧
    ∀ a, m.read a =
      if s.latch.dst.toNat ≤ a ∧ a < s.latch.dst.toNat + n then byte (a - s.latch.dst.toNat) else s.mem.read a

/-- The source byte that byte `p` of a packed buffer is, in the index form of R101. -/
def packIndex (p : Nat) : Nat := 256 * (p / 129) + if p % 129 = 128 then 0 else p % 129

/-- Byte `p` of the message with the header groups of `L` and a payload of `len` bytes (R140, R141). -/
def messageByte (L : Latch) (payload : Nat → Byte) (len p : Nat) : Byte :=
  let h1 := 1 + L.mlen.toNat
  let h2 := h1 + L.dlen.toNat
  let h3 := h2 + L.clen.toNat
  if p = 0 then 0xF0
  else if p < h1 then L.mfr.toList.getD (p - 1) 0
  else if p < h2 then L.dev.toList.getD (p - h1) 0
  else if p < h3 then L.cmdid.toList.getD (p - h2) 0
  else if p < h3 + len then payload (p - h3)
  else 0xF7

/-- The end of a framing command whose earlier checks pass (R142 to R144, R161, R187), for a message of `n` bytes: CFGW and
HIB, ConfigurationError when STRICT = 1 and one of them is set, and else the message written at DST_ADDR. -/
def FramesOrReports (i : Instr) (s : State) (n : Nat) (byte : Nat → Byte) : Prop :=
  ∀ cfgw hib : Bool,
    (cfgw = true ↔ ¬(s.latch.mlen = 3 ∧ s.latch.dlen = 2 ∧ s.latch.clen = 2)) →
    (hib = true ↔ ∃ p, 0 < p ∧ p + 1 < n ∧ 0x80 ≤ (byte p).toNat) →
    (s.latch.strict = true → (cfgw = true ∨ hib = true) →
      exec i s = .next (s.errorState .configurationError cfgw hib)) ∧
    (s.latch.strict = false ∨ (cfgw = false ∧ hib = false) → Writes i s n byte cfgw hib)

/-- The next step is the host's, and `op` is the line at its pc. -/
abbrev State.AtHostOp (s : State) (op : HostOp) : Prop := s.turn = .host ∧ s.prog[s.pc]? = some op

/-- The next step is the completion step of the latched command. -/
abbrev State.AtCompletion (s : State) : Prop := s.turn = .engine ∧ s.status.busy = true

/-- The next step asserts RST, or deasserts it. -/
abbrev State.AtReset (s : State) : Prop := s.turn = .assertRst ∨ (s.turn = .deassertRst ∧ s.rst = true)

/-- One command with its operand registers written: SRC_ADDR, SRC_LEN and DST_ADDR, then issue, then completion. -/
def State.runCommand (s : State) (i : Instr) (src len dst : Word) : Host.Outcome State Fault Refusal :=
  exec i (({ s with srcAddr := src, srcLen := len, dstAddr := dst } : State).issue (encode i))

end Sys2Proof.Machine
end

