-- ==== Sys2Proof/Certificates/Slice0/Obligations.lean ====
section
/-! DEFINITION. The statements about the machine, for the provers. -/

open Sys2Proof Sys2Proof.Machine

/-! ### Reset -/

/-- R41, R74: after power-up and reset, for every value of the parameters and every power-up content of MEM, every register
has its reset value and MEM is as it was. (State.powerUp is the model's; that no command is in flight is R210.) -/
def Obligations.PowerUpHoldsTheResetTable : Prop :=
  ∀ (p : Config.Params) (m : Memory),
    (State.powerUp p m).AtResetValues ∧ (State.powerUp p m).status.busy = false ∧ (State.powerUp p m).mem = m ∧
      (State.powerUp p m).rst = false ∧ State.reset = State.powerUp Config.Params.reference []

/-- R41, R210: asserting RST, and deasserting it, gives every register its reset value; while RST is asserted host accesses
have no effect and reads return a free value, and no step takes a register from its reset value. MEM is unchanged when no
command is in flight. -/
def Obligations.RstReturnsEveryRegisterToItsResetValue : Prop :=
  (∀ s : State, s.AtReset → ∃ t, step s = .next t ∧ t.AtResetValues ∧ t.status.busy = false ∧
    t.params = s.params ∧ (s.turn = .assertRst ↔ t.rst = true) ∧
    (s.turn = .deassertRst ∨ s.status.busy = false → t.mem = s.mem)) ∧
  (∀ (s : State), s.rst = true →
    (∀ wd o w, s.hostOp (.rwr wd o w) = s.advance) ∧
    (∀ a v, s.hostOp (.mwr a v) = s.advance) ∧
    (∀ wd o, s.hostOp (.rrd wd o) =
      { s with reads := (.reg o, Config.freeWord s.draws) :: s.reads, draws := s.draws + 1, pc := s.pc + 1 }) ∧
    (∀ a, s.hostOp (.mrd a) =
      { s with reads := (.mem a, (Config.freeByte s.draws).setWidth 32) :: s.reads, draws := s.draws + 1, pc := s.pc + 1 })) ∧
  (∀ s t : State, s.rst = true → s.AtResetValues → step s = .next t → t.AtResetValues)

/-- R211: RST during a command abandons it; each byte of its output range holds a free value if its range checks would pass,
and every other byte is unchanged. That "its range checks" are those of R183 and R184 alone, so that the range is left open
also for a command that would fail another check, is the model's deduction (log 12). -/
def Obligations.ResetDuringACommandLeavesOnlyItsOutputRangeOpen : Prop :=
  ∀ (s : State) (i : Instr), s.turn = .assertRst → s.status.busy = true → decode s.latch.word = .ok i →
    ∃ t, step s = .next t ∧ t.status.busy = false ∧ t.status.done = false ∧ t.irq = false ∧
      (s.latch.src.toNat + s.latch.len.toNat ≤ s.params.memSize →
        s.latch.dst.toNat + outLenOf i s.latch ≤ s.params.memSize →
        ∀ a, t.mem.read a =
          if s.latch.dst.toNat ≤ a ∧ a < s.latch.dst.toNat + outLenOf i s.latch
          then Config.freeByte (s.draws + (a - s.latch.dst.toNat)) else s.mem.read a) ∧
      ((s.params.memSize < s.latch.src.toNat + s.latch.len.toNat ∨
          s.params.memSize < s.latch.dst.toNat + outLenOf i s.latch) →
        ∀ a, t.mem.read a = s.mem.read a)

/-- The model's log 12: an illegal word has no OutLen (R86), so a reset while it is in flight leaves every byte of MEM. -/
def Obligations.ResetDuringAnIllegalWordKeepsMem : Prop :=
  ∀ (s : State) (e : DecodeError), s.turn = .assertRst → s.status.busy = true → decode s.latch.word = .error e →
    ∃ t, step s = .next t ∧ t.status.busy = false ∧ t.status.done = false ∧ t.irq = false ∧ t.mem = s.mem

/-! ### The step -/

/-- R20, R21, R88: at the host's turn the step performs the line of the host program at the pc, and after the last line the
host does nothing; an access moves the pc to the next line. (The schedule is log 2, the end of the program log 3.) -/
def Obligations.HostTurnRunsTheLineAtThePc : Prop :=
  ∀ s : State, s.turn = .host →
    (∀ op, s.prog[s.pc]? = some op → step s = .next (s.popTurn.hostOp op)) ∧
    (s.prog[s.pc]? = none → step s = .next s.popTurn) ∧
    (∀ op, (∀ l mask target, op ≠ .bnz l mask target) → (s.hostOp op).pc = s.pc + 1)

/-- R20, R40, R85, R87: when a command is in flight and the engine's turn comes, the step is exactly the meaning of the
instruction that the latched word decodes to; and the word latched at an issue is the word written. -/
def Obligations.StepRunsTheLatchedCommand : Prop :=
  (∀ (s : State) (i : Instr), s.AtCompletion → decode s.latch.word = .ok i → step s = exec i s.popTurn) ∧
  (∀ (s : State) (w : Word), (s.issue w).latch.word = w ∧ (s.issue w).status.busy = true)

/-- The model's log 1: a command word placed for the next step is run by it, from any state, with the operands the registers
hold (R82, R85). -/
def Obligations.PlacedWordRunsItsInstruction : Prop :=
  ∀ (s : State) (i : Instr),
    step (s.withFetchWord 32 (encode i).toNat) = exec i { s.issue (encode i) with rst := false } ∧
      decodeTableWord 32 (encode i).toNat = some i

/-- R40 and the model's log 13: with BUSY = 0 the engine has no step. -/
def Obligations.EngineHasNoStepWithoutACommand : Prop :=
  ∀ s : State, s.turn = .engine → s.status.busy = false → step s = .next s.popTurn

/-- R83, R190, R191: every step has a next state. The rest is about the model's own fields: that nothing stops is the model's
reading of those rules (log 16), the parameters and the host program are constant fields (log 4, log 3), a step takes one turn
off the schedule (log 2), and the count of free values never goes down (log 8; O48 says which step takes which of them). -/
def Obligations.StepsNeverStopAndKeepTheParameters : Prop :=
  ∀ s : State, ∃ t, step s = .next t ∧ t.params = s.params ∧ t.prog = s.prog ∧ t.sched = s.sched.tail ∧
    s.draws ≤ t.draws

/-! ### The command word -/

/-- R81: the four command words, written out, and the instructions they stand for. -/
def Obligations.WrittenOutCommandWordsDecode : Prop :=
  decode 0x00000001 = .ok .pack ∧ decode 0x00000002 = .ok .nibz ∧ decode 0x00000003 = .ok .frame ∧
    decode 0x00000004 = .ok .pnf

/-- R80, R84: each instruction has one word and each legal word one instruction; decoding an encoded instruction gives it
back. -/
def Obligations.DecoderReadsExactlyTheFourWords : Prop :=
  (∀ (w : Word) (i : Instr), decode w = .ok i ↔ w = encode i) ∧
  (∀ w : Word, (∃ i, decode w = .ok i) ↔ 1 ≤ w.toNat ∧ w.toNat ≤ 4) ∧
  (∀ i : Instr, (encode i).toNat = match i with | .pack => 1 | .nibz => 2 | .frame => 3 | .pnf => 4)

/-- R83, R181: a word with RSV ≠ 0, or with OP 0x00 or in 0x05..0xFF, is issued like any other, and its completion reports
IllegalCommand before any other check, writes no MEM byte and leaves OUT_LEN at 0. -/
def Obligations.IllegalWordsAreIssuedAndReported : Prop :=
  ∀ (s : State) (w : Word),
    w.extractLsb' 8 24 ≠ 0 ∨ (w.extractLsb' 0 8).toNat = 0 ∨ 5 ≤ (w.extractLsb' 0 8).toNat →
    (s.rst = false → s.status.busy = false → s.hostOp (.write .cmd w) = (s.issue w).advance) ∧
    (s.AtCompletion → s.latch.word = w →
      step s = .next (s.popTurn.errorState .illegalCommand false false))

/-! ### The register port -/

/-- R85: a CMD write with BUSY = 0 latches the word, the operand registers, STRICT, the header lengths and arrays; it sets
BUSY, clears DONE, ERR, CFGW, HIB and OUT_LEN, leaves VIOL, and makes no check. With BUSY = 1 it only sets VIOL. -/
def Obligations.IssueLatchesOperandsAndClearsResults : Prop :=
  ∀ (s : State) (w : Word), s.rst = false →
    (s.status.busy = true →
      s.hostOp (.write .cmd w) = { s with status := { s.status with viol := true }, pc := s.pc + 1 }) ∧
    (s.status.busy = false → s.hostOp (.write .cmd w) =
      { s with
        latch :=
          { op := w.extractLsb' 0 8, rsv := w.extractLsb' 8 24, src := s.srcAddr, len := s.srcLen, dst := s.dstAddr,
            strict := s.ctrl.strict, mlen := s.hdrLen.mfrLen, dlen := s.hdrLen.devLen, clen := s.hdrLen.cmdLen,
            mfr := s.mfrId, dev := s.devId, cmdid := s.cmdId }
        status :=
          { busy := true, done := false, err := .ok, cfgw := false, hib := false, viol := s.status.viol }
        outLen := 0
        pc := s.pc + 1 })

/-- R24, R25, R32, R180: which bit of a register is which field, that reserved bits read 0, and the number of each error
code. -/
def Obligations.RegisterBitsAreTheFieldsOfTheTables : Prop :=
  (ErrCode.code .ok = 0 ∧ ErrCode.code .invalidInputSize = 1 ∧ ErrCode.code .configurationError = 2 ∧
    ErrCode.code .headerCapacity = 3 ∧ ErrCode.code .srcRange = 4 ∧ ErrCode.code .dstRange = 5 ∧
    ErrCode.code .overlap = 6 ∧ ErrCode.code .illegalCommand = 7) ∧
  ∀ (s : State) (k : Nat),
    ((s.readReg .ctrl).getLsbD k =
      if k = 0 then s.ctrl.ie else if k = 1 then s.ctrl.strict else false) ∧
    ((s.readReg .status).getLsbD k =
      if k = 0 then s.status.busy else if k = 1 then s.status.done
      else if 4 ≤ k ∧ k ≤ 7 then s.status.err.code.getLsbD (k - 4)
      else if k = 8 then s.status.cfgw else if k = 9 then s.status.hib else if k = 10 then s.status.viol else false) ∧
    ((s.readReg .hdrLen).getLsbD k =
      if k ≤ 4 then s.hdrLen.mfrLen.getLsbD k
      else if 8 ≤ k ∧ k ≤ 12 then s.hdrLen.devLen.getLsbD (k - 8)
      else if 16 ≤ k ∧ k ≤ 20 then s.hdrLen.cmdLen.getLsbD (k - 16) else false)

/-- R23, R24, R28 to R30, R32, R33: the offset of each register, written out; with BUSY = 0 a written register reads back the
bits of its defined fields, and no other register's value changes. -/
def Obligations.WrittenRegistersReadBack : Prop :=
  (Reg.offset .ctrl = 0x00 ∧ Reg.offset .status = 0x04 ∧ Reg.offset .cmd = 0x08 ∧ Reg.offset .srcAddr = 0x0C ∧
    Reg.offset .srcLen = 0x10 ∧ Reg.offset .dstAddr = 0x14 ∧ Reg.offset .outLen = 0x18 ∧ Reg.offset .hdrLen = 0x1C ∧
    (∀ j : Fin 4, Reg.offset (.mfrId j) = 0x20 + 4 * j.val ∧ Reg.offset (.devId j) = 0x30 + 4 * j.val ∧
      Reg.offset (.cmdId j) = 0x40 + 4 * j.val)) ∧
  ∀ (s : State) (r : Reg) (w : Word), s.rst = false → s.status.busy = false →
    r ≠ .cmd → r ≠ .status → r ≠ .outLen →
    ((s.hostOp (.write r w)).readReg r =
      match r with
      | .ctrl => w &&& 0x00000003
      | .hdrLen => w &&& 0x001F1F1F
      | _ => w) ∧
    (∀ r', r' ≠ r → (s.hostOp (.write r w)).readReg r' = s.readReg r') ∧
    (s.hostOp (.write r w)).mem = s.mem ∧ (s.hostOp (.write r w)).status = s.status

/-- R33, R64: byte i of a header array stands at bits [8(i mod 4)+7 : 8(i mod 4)] of register i div 4, for a read and for a
write; a write leaves the bytes of the other registers. -/
def Obligations.HeaderArrayBytesStandLittleEndian : Prop :=
  ∀ (s : State) (j : Fin 4) (w : Word) (i : Fin 16), s.rst = false → s.status.busy = false →
    (i.val / 4 = j.val →
      (s.readReg (.mfrId j)).extractLsb' (8 * (i.val % 4)) 8 = s.mfrId[i] ∧
      (s.readReg (.devId j)).extractLsb' (8 * (i.val % 4)) 8 = s.devId[i] ∧
      (s.readReg (.cmdId j)).extractLsb' (8 * (i.val % 4)) 8 = s.cmdId[i]) ∧
    ((s.hostOp (.write (.mfrId j) w)).mfrId[i] =
      if i.val / 4 = j.val then w.extractLsb' (8 * (i.val % 4)) 8 else s.mfrId[i]) ∧
    ((s.hostOp (.write (.devId j) w)).devId[i] =
      if i.val / 4 = j.val then w.extractLsb' (8 * (i.val % 4)) 8 else s.devId[i]) ∧
    ((s.hostOp (.write (.cmdId j) w)).cmdId[i] =
      if i.val / 4 = j.val then w.extractLsb' (8 * (i.val % 4)) 8 else s.cmdId[i])

/-- R26: a STATUS write clears DONE if bit 1 is 1 and VIOL if bit 10 is 1, ignores every other bit, is accepted while
BUSY = 1 and changes nothing else. -/
def Obligations.StatusWriteIsWriteOneToClear : Prop :=
  ∀ (s : State) (w : Word), s.rst = false →
    s.hostOp (.write .status w) =
      { s with
        status := { s.status with
          done := if w.getLsbD 1 then false else s.status.done
          viol := if w.getLsbD 10 then false else s.status.viol }
        pc := s.pc + 1 }

/-- R34: offsets 0x50 to 0xFC read 0 and ignore writes; reserved bits read 0 and ignore writes; a write to a reserved offset
or to OUT_LEN has no effect, while BUSY = 1 too. -/
def Obligations.ReservedSpaceReadsZeroAndIgnoresWrites : Prop :=
  (∀ (s : State) (o : Nat) (w : Word), s.rst = false → 0x50 ≤ o → o ≤ 0xFC → o % 4 = 0 →
    s.hostOp (.rwr .w32 o w) = s.advance ∧
    s.hostOp (.rrd .w32 o) = { s with reads := (.reg o, 0) :: s.reads, pc := s.pc + 1 }) ∧
  (∀ (s : State) (w : Word), s.rst = false → s.hostOp (.write .outLen w) = s.advance) ∧
  (∀ s : State, s.readReg .ctrl &&& 0xFFFFFFFC = 0 ∧ s.readReg .status &&& 0xFFFFF80C = 0 ∧
    s.readReg .hdrLen &&& 0xFFE0E0E0 = 0) ∧
  (∀ (s : State) (w w' : Word), s.rst = false →
    (w &&& 0x00000003 = w' &&& 0x00000003 → s.hostOp (.write .ctrl w) = s.hostOp (.write .ctrl w')) ∧
    (w &&& 0x001F1F1F = w' &&& 0x001F1F1F → s.hostOp (.write .hdrLen w) = s.hostOp (.write .hdrLen w')) ∧
    (w &&& 0x000007F3 = w' &&& 0x000007F3 → s.hostOp (.write .status w) = s.hostOp (.write .status w')))

/-- R39: while BUSY = 1 a write to CTRL, CMD, SRC_ADDR, SRC_LEN, DST_ADDR, HDR_LEN or a header array register only sets
VIOL; writes to STATUS, OUT_LEN and reserved space do what they do with BUSY = 0; an MWR to MEM is dropped and sets VIOL. -/
def Obligations.BusyDropsGuardedWrites : Prop :=
  ∀ (s : State) (w : Word), s.rst = false → s.status.busy = true →
    (∀ r : Reg, r ≠ .status → r ≠ .outLen →
      s.hostOp (.write r w) = { s with status := { s.status with viol := true }, pc := s.pc + 1 }) ∧
    (s.hostOp (.write .status w) =
      { s with status := { s.status with
          done := if w.getLsbD 1 then false else s.status.done
          viol := if w.getLsbD 10 then false else s.status.viol }, pc := s.pc + 1 }) ∧
    s.hostOp (.write .outLen w) = { s with pc := s.pc + 1 } ∧
    (∀ o : Nat, 0x50 ≤ o → o ≤ 0xFC → s.hostOp (.rwr .w32 o w) = { s with pc := s.pc + 1 }) ∧
    (∀ (a : Nat) (v : Byte), a < s.params.memSize →
      s.hostOp (.mwr a v) = { s with status := { s.status with viol := true }, pc := s.pc + 1 })

/-- R63: a register access that is not 32 bits wide, or not at a multiple of 4, or above 0xFC, writes nothing, sets no bit,
and as a read returns a free value; a well-formed access of a register writes or reads that register. -/
def Obligations.MalformedRegisterAccessesWriteNothing : Prop :=
  ∀ (s : State) (wd : Width) (o : Nat) (w : Word), s.rst = false →
    (¬(wd = .w32 ∧ o % 4 = 0 ∧ o ≤ 0xFC) →
      s.hostOp (.rwr wd o w) = { s with pc := s.pc + 1 } ∧
      s.hostOp (.rrd wd o) =
        { s with reads := (.reg o, Config.freeWord s.draws) :: s.reads, draws := s.draws + 1, pc := s.pc + 1 }) ∧
    (∀ r : Reg, wd = .w32 → o = r.offset →
      s.hostOp (.rwr wd o w) = (s.writeReg r w).advance ∧
      s.hostOp (.rrd wd o) = { s with reads := (.reg o, s.readReg r) :: s.reads, pc := s.pc + 1 })

/-- R42: a read of any register, at any time outside reset, returns its current value to the host and changes nothing else;
CMD reads 0 (R27). -/
def Obligations.RegisterReadsHaveNoSideEffect : Prop :=
  ∀ (s : State) (r : Reg), s.rst = false →
    s.hostOp (.read r) = { s with reads := (.reg r.offset, s.readReg r) :: s.reads, pc := s.pc + 1 } ∧
    s.readReg .cmd = 0 ∧ s.readReg .srcAddr = s.srcAddr ∧ s.readReg .srcLen = s.srcLen ∧
    s.readReg .dstAddr = s.dstAddr ∧ s.readReg .outLen = s.outLen

/-! ### The memory port -/

/-- R61: with BUSY = 0 an access below MEM_SIZE reads or writes exactly that byte. -/
def Obligations.MemoryPortAccessesOneByteWhileIdle : Prop :=
  ∀ (s : State) (a : Nat) (v : Byte), s.rst = false → s.status.busy = false → a < s.params.memSize →
    (∃ m : Memory, s.hostOp (.mwr a v) = { s with mem := m, pc := s.pc + 1 } ∧
      ∀ b, m.read b = if b = a then v else s.mem.read b) ∧
    s.hostOp (.mrd a) = { s with reads := (.mem a, (s.mem.read a).setWidth 32) :: s.reads, pc := s.pc + 1 }

/-- R62, R71: an access at or above MEM_SIZE reaches no byte and, with BUSY = 0, sets no bit; while BUSY = 1, and above
MEM_SIZE, a read returns a free byte. (Whether a write above MEM_SIZE while BUSY = 1 sets VIOL is free: log 10.) -/
def Obligations.MemoryPortOutOfRangeAndBusyAccesses : Prop :=
  ∀ (s : State) (a : Nat) (v : Byte), s.rst = false →
    (s.status.busy = false → s.params.memSize ≤ a → s.hostOp (.mwr a v) = { s with pc := s.pc + 1 }) ∧
    (s.status.busy = true → (s.hostOp (.mwr a v)).mem = s.mem ∧
      (s.hostOp (.mwr a v)).status = { s.status with viol := (s.hostOp (.mwr a v)).status.viol } ∧
      (a < s.params.memSize → (s.hostOp (.mwr a v)).status.viol = true)) ∧
    (s.status.busy = true ∨ s.params.memSize ≤ a →
      s.hostOp (.mrd a) =
        { s with reads := (.mem a, (Config.freeByte s.draws).setWidth 32) :: s.reads, draws := s.draws + 1,
                 pc := s.pc + 1 })

/-- R70: a read returns the last write to its address and a write leaves every other address alone; every write keeps the
canonical form, and canonical memories that read alike are equal. -/
def Obligations.MemoryReadsTheLastWriteInCanonicalForm : Prop :=
  (∀ (m : Memory) (a b : Nat) (v : Byte), (m.write a v).read b = if b = a then v else m.read b) ∧
  (∀ (m : Memory) (a : Nat) (v : Byte), m.wf → (m.write a v).wf) ∧
  (∀ m m' : Memory, m.wf → m'.wf → (∀ a, m.read a = m'.read a) → m = m') ∧
  (∀ (m : Memory) (a b : Nat) (v w : Byte), m.wf → a ≠ b →
    (m.write a v).write b w = (m.write b w).write a v ∧ (m.write a v).write a w = m.write a w)

/-! ### The commands -/

/-- R102: PACK. -/
def Obligations.PackFollowsItsRule : Prop :=
  decode 0x00000001 = .ok .pack ∧ ∀ s : State,
    (s.latch.len.toNat ≠ 2048 → exec .pack s = .next (s.errorState .invalidInputSize false false)) ∧
    (s.latch.len.toNat = 2048 →
      RangeErrors .pack s 1032 ∧
      (s.RangesPass 1032 →
        Writes .pack s 1032 (fun p => s.mem.read (s.latch.src.toNat + packIndex p)) false false))

/-- R121: NIBZ. -/
def Obligations.NibzFollowsItsRule : Prop :=
  decode 0x00000002 = .ok .nibz ∧ ∀ s : State,
    RangeErrors .nibz s (2 * s.latch.len.toNat) ∧
    (s.RangesPass (2 * s.latch.len.toNat) →
      Writes .nibz s (2 * s.latch.len.toNat)
        (fun p =>
          if p % 2 = 0 then s.mem.read (s.latch.src.toNat + p / 2) &&& 0x0F#8
          else (s.mem.read (s.latch.src.toNat + p / 2) >>> 4) &&& 0x0F#8)
        false false)

/-- R144: FRAME. -/
def Obligations.FrameFollowsItsRule : Prop :=
  decode 0x00000003 = .ok .frame ∧ ∀ s : State, ∀ n : Nat,
    n = 2 + s.latch.mlen.toNat + s.latch.dlen.toNat + s.latch.clen.toNat + s.latch.len.toNat →
    (16 < s.latch.mlen.toNat ∨ 16 < s.latch.dlen.toNat ∨ 16 < s.latch.clen.toNat →
      exec .frame s = .next (s.errorState .headerCapacity false false)) ∧
    (s.latch.mlen.toNat ≤ 16 → s.latch.dlen.toNat ≤ 16 → s.latch.clen.toNat ≤ 16 →
      RangeErrors .frame s n ∧
      (s.RangesPass n →
        FramesOrReports .frame s n
          (messageByte s.latch (fun k => s.mem.read (s.latch.src.toNat + k)) s.latch.len.toNat)))

/-- R161: PNF. -/
def Obligations.PnfFollowsItsRule : Prop :=
  decode 0x00000004 = .ok .pnf ∧ ∀ s : State, ∀ n : Nat,
    n = 2066 + s.latch.mlen.toNat + s.latch.dlen.toNat + s.latch.clen.toNat →
    (16 < s.latch.mlen.toNat ∨ 16 < s.latch.dlen.toNat ∨ 16 < s.latch.clen.toNat →
      exec .pnf s = .next (s.errorState .headerCapacity false false)) ∧
    (s.latch.mlen.toNat ≤ 16 → s.latch.dlen.toNat ≤ 16 → s.latch.clen.toNat ≤ 16 →
      (s.latch.len.toNat ≠ 2048 → exec .pnf s = .next (s.errorState .invalidInputSize false false)) ∧
      (s.latch.len.toNat = 2048 →
        RangeErrors .pnf s n ∧
        (s.RangesPass n →
          FramesOrReports .pnf s n
            (messageByte s.latch
              (fun k =>
                let b := s.mem.read (s.latch.src.toNat + packIndex (k / 2))
                if k % 2 = 0 then b &&& 0x0F#8 else b >>> 4)
              2064))))

/-- R86, R87: at the engine's turn with a command in flight, the step is the completion step with what `Execute(L)` of R86
returns, whatever the latched word; its output has the length it reports. -/
def Obligations.StepExecutesTheLatchAsWritten : Prop :=
  ∀ s : State, s.AtCompletion →
    ∀ r : Result, r = specExecute s.params.memSize s.mem s.latch →
      r.out.length = r.n ∧
      step s = .next (if r.code = .ok
        then s.popTurn.successState (s.mem.writeSeq s.latch.dst.toNat r.out) r.n r.cfgw r.hib
        else s.popTurn.errorState r.code r.cfgw r.hib)

/-- R190: when a command ends with an error, no MEM byte is written, OUT_LEN is 0, STATUS reports the code with BUSY = 0 and
DONE = 1, CFGW or HIB is set only with ConfigurationError, and nothing else is changed. While the command is in flight a host
access changes nothing of the block but VIOL and DONE, so after an error every register and MEM byte has its value at issue. -/
def Obligations.ErrorsArePrecise : Prop :=
  (∀ (s : State) (op : HostOp), s.status.busy = true →
    s.hostOp op = { s with
      status := { s.status with done := (s.hostOp op).status.done, viol := (s.hostOp op).status.viol }
      pc := (s.hostOp op).pc, reads := (s.hostOp op).reads, draws := (s.hostOp op).draws }) ∧
  ∀ s t : State, completeLatched s = .next t → t.status.err ≠ .ok →
    t = { s with
      outLen := 0
      status :=
        { busy := false, done := true, err := t.status.err, cfgw := t.status.cfgw, hib := t.status.hib,
          viol := s.status.viol } } ∧
    ((t.status.cfgw = true ∨ t.status.hib = true) → t.status.err = .configurationError)

/-- R22, R31, R35, R60, R66: the frame of PACK, NIBZ, FRAME and PNF. Only MEM, OUT_LEN and STATUS change; VIOL is kept;
every byte of MEM outside the output range [DST_ADDR, DST_ADDR + OutLen) is kept, and all of MEM on an error. -/
def Obligations.CommandsChangeOnlyOutputAndStatus : Prop :=
  ∀ (i : Instr) (s t : State), exec i s = .next t →
    t = { s with mem := t.mem, outLen := t.outLen, status := t.status } ∧
    t.status.viol = s.status.viol ∧ t.status.busy = false ∧ t.status.done = true ∧
    (∀ a, ¬(s.latch.dst.toNat ≤ a ∧ a < s.latch.dst.toNat + outLenOf i s.latch) → t.mem.read a = s.mem.read a) ∧
    (t.status.err ≠ .ok → ∀ a, t.mem.read a = s.mem.read a) ∧
    (t.status.err = .ok → t.outLen = BitVec.ofNat 32 (outLenOf i s.latch))

/-! ### The functions -/

/-- R100, R101, R103: Pack of 2048 bytes has 1032 bytes, each the source byte the index form names; every cycle closes with
its own first sample. -/
def Obligations.PackHasItsIndexForm : Prop :=
  ∀ buf : List Byte, buf.length = 2048 →
    (pack buf).length = 1032 ∧
    (∀ k j : Nat, k < 8 → j < 128 → (pack buf)[129 * k + j]? = buf[256 * k + j]?) ∧
    (∀ k : Nat, k < 8 → (pack buf)[129 * k + 128]? = buf[256 * k]? ∧ (pack buf)[129 * k + 128]? = (pack buf)[129 * k]?) ∧
    (∀ p : Nat, p < 1032 → (pack buf)[p]? = buf[packIndex p]?)

/-- R120, R122: Nibblize doubles the length, gives only bytes < 0x10, low nibble first, and each byte is recovered as
high << 4 | low; it is a bijection onto the sequences of even length with all elements < 0x10. -/
def Obligations.NibblizeIsReversible : Prop :=
  (∀ S : List Byte, (nibblize S).length = 2 * S.length) ∧
  (∀ (S : List Byte) (x : Byte), x ∈ nibblize S → x.toNat < 0x10) ∧
  (∀ (S : List Byte) (i : Nat) (b : Byte), S[i]? = some b →
    (nibblize S)[2 * i]? = some (b &&& 0x0F#8) ∧ (nibblize S)[2 * i + 1]? = some ((b >>> 4) &&& 0x0F#8)) ∧
  (∀ (S : List Byte) (i : Nat) (lo hi : Byte), (nibblize S)[2 * i]? = some lo → (nibblize S)[2 * i + 1]? = some hi →
    S[i]? = some ((hi <<< 4) ||| lo)) ∧
  (∀ S S' : List Byte, nibblize S = nibblize S' → S = S') ∧
  (∀ T : List Byte, T.length % 2 = 0 → (∀ x ∈ T, x.toNat < 0x10) → ∃ S, nibblize S = T)

/-- R140, R143, R145: a message is F0, the three groups, the payload and F7, every byte copied; its interior bytes are all
< 0x80 exactly when HIB = 0, and whenever every header and payload byte is < 0x80. -/
def Obligations.MessagesHaveTheFramedShape : Prop :=
  ∀ m d c p : List Byte,
    buildMessage m d c p = [0xF0] ++ m ++ d ++ c ++ p ++ [0xF7] ∧
    (buildMessage m d c p).length = 1 + m.length + d.length + c.length + p.length + 1 ∧
    (buildMessage m d c p)[0]? = some 0xF0 ∧
    (buildMessage m d c p)[(buildMessage m d c p).length - 1]? = some 0xF7 ∧
    (hiB (buildMessage m d c p) = false ↔
      ∀ (i : Nat) (b : Byte), 1 ≤ i → i < (buildMessage m d c p).length - 1 → (buildMessage m d c p)[i]? = some b →
        b.toNat < 0x80) ∧
    ((∀ b ∈ m ++ d ++ c ++ p, b.toNat < 0x80) → hiB (buildMessage m d c p) = false)

/-- R180, R185: Overlap is exactly that the source range and the output range share a byte. -/
def Obligations.OverlapMeansASharedByte : Prop :=
  ∀ a m b k : Nat, overlaps a m b k = true ↔ ∃ x, (a ≤ x ∧ x < a + m) ∧ (b ≤ x ∧ x < b + k)

/-! ### Whole-machine rules -/

/-- R36, R192: IRQ is DONE & IE; every completion raises it if IE = 1; a write of 1 to STATUS bit 1, an issue and a reset
clear it; clearing IE masks it without clearing DONE; a dropped write does not change it. -/
def Obligations.InterruptFollowsDoneAndEnable : Prop :=
  (∀ s : State, s.irq = (s.status.done && s.ctrl.ie)) ∧
  (∀ s : State, s.AtCompletion → ∃ t, step s = .next t ∧ t.status.done = true ∧ t.irq = s.ctrl.ie) ∧
  (∀ s : State, s.AtReset → ∃ t, step s = .next t ∧ t.irq = false) ∧
  (∀ (s : State) (w : Word), s.rst = false →
    (s.hostOp (.write .status w)).irq = (s.irq && !w.getLsbD 1) ∧
    (s.status.busy = false → (s.hostOp (.write .cmd w)).irq = false) ∧
    (s.status.busy = false → (s.hostOp (.write .ctrl w)).irq = (s.status.done && w.getLsbD 0) ∧
      (s.hostOp (.write .ctrl w)).status.done = s.status.done) ∧
    (∀ r : Reg, s.status.busy = true → r ≠ .status → (s.hostOp (.write r w)).irq = s.irq) ∧
    (∀ (a : Nat) (v : Byte), (s.hostOp (.mwr a v)).irq = s.irq))

/-- R188: a dropped write sets VIOL and changes neither ERR nor the command in flight; VIOL is set by nothing else, and stays
1 until the host writes 1 to STATUS bit 10 or until reset. -/
def Obligations.ViolIsStickyAndSetOnlyByDroppedWrites : Prop :=
  (∀ (s : State) (r : Reg) (w : Word), s.rst = false → s.status.busy = true → r.guarded = true →
    (s.hostOp (.write r w)).status.viol = true ∧ (s.hostOp (.write r w)).status.err = s.status.err ∧
      (s.hostOp (.write r w)).latch = s.latch ∧ (s.hostOp (.write r w)).status.busy = true) ∧
  (∀ (s : State) (a : Nat) (v : Byte), s.rst = false → s.status.busy = true → a < s.params.memSize →
    (s.hostOp (.mwr a v)).status = { s.status with viol := true } ∧ (s.hostOp (.mwr a v)).latch = s.latch ∧
      (s.hostOp (.mwr a v)).mem = s.mem) ∧
  (∀ s t : State, step s = .next t → s.status.viol = true → t.status.viol = false →
    (s.turn = .host ∧ s.rst = false ∧ ∃ w : Word, s.prog[s.pc]? = some (.write .status w) ∧ w.getLsbD 10 = true) ∨
      s.AtReset) ∧
  (∀ s t : State, step s = .next t → s.status.viol = false → t.status.viol = true →
    s.turn = .host ∧ s.rst = false ∧ s.status.busy = true ∧
      ((∃ r w, s.prog[s.pc]? = some (.write r w) ∧ r.guarded = true) ∨ ∃ a v, s.prog[s.pc]? = some (.mwr a v)))

/-- R35, R191: BUSY, ERR, CFGW, HIB and OUT_LEN change only at an issue, at a completion and at a reset; DONE is set only by a
completion, and cleared only by a write of 1 to STATUS bit 1, an issue or a reset. -/
def Obligations.ResultsStayUntilTheNextIssueOrReset : Prop :=
  ∀ s t : State, step s = .next t → ¬s.AtReset → ¬s.AtCompletion →
    ((∀ w : Word, ¬(s.AtHostOp (.write .cmd w) ∧ s.status.busy = false ∧ s.rst = false)) →
      t.status.busy = s.status.busy ∧ t.status.err = s.status.err ∧ t.status.cfgw = s.status.cfgw ∧
        t.status.hib = s.status.hib ∧ t.outLen = s.outLen) ∧
    (t.status.done = true → s.status.done = true) ∧
    (s.status.done = true → t.status.done = false →
      (∃ w : Word, s.AtHostOp (.write .cmd w)) ∨ ∃ w : Word, s.AtHostOp (.write .status w) ∧ w.getLsbD 1 = true)

/-- R60, R61, R66, R211: a byte of MEM changes only at a completion, at a reset during a command, and at an MWR to that byte
with BUSY = 0. -/
def Obligations.OnlyCompletionsResetsAndMemoryWritesChangeMem : Prop :=
  ∀ (s t : State) (a : Nat), step s = .next t → t.mem.read a ≠ s.mem.read a →
    s.AtCompletion ∨ (s.turn = .assertRst ∧ s.status.busy = true) ∨
      (s.turn = .host ∧ s.rst = false ∧ s.status.busy = false ∧ a < s.params.memSize ∧
        ∃ v : Byte, s.prog[s.pc]? = some (.mwr a v) ∧ t.mem.read a = v)

/-- R38, R39, R71: no host access while a command is in flight changes what the command will do: its output, OUT_LEN, ERR,
CFGW and HIB are the same as if the access had not been made. -/
def Obligations.HostAccessesCannotChangeTheCommandInFlight : Prop :=
  ∀ (s : State) (op : HostOp), s.status.busy = true →
    ∃ t u, completeLatched s = .next t ∧ completeLatched (s.hostOp op) = .next u ∧
      u.mem = t.mem ∧ u.outLen = t.outLen ∧ u.status.err = t.status.err ∧ u.status.cfgw = t.status.cfgw ∧
      u.status.hib = t.status.hib ∧ u.srcAddr = t.srcAddr ∧ u.srcLen = t.srcLen ∧ u.dstAddr = t.dstAddr

/-- R221: the completion may be the step right after the issue: with the turns host, engine next, two steps run the command
word that the host's line writes. -/
def Obligations.CompletionMayFollowTheIssueAtOnce : Prop :=
  ∀ (s : State) (i : Instr) (rest : List Turn),
    s.sched = .host :: .engine :: rest → s.prog[s.pc]? = some (.write .cmd (encode i)) →
    s.rst = false → s.status.busy = false →
    core.run 2 s = exec i { (s.issue (encode i)).advance with sched := rest } 

/-- R220: a STATUS read while a command is in flight returns BUSY = 1, and with none in flight BUSY = 0. -/
def Obligations.StatusReadsReportTheCommandInFlight : Prop :=
  ∀ s : State, s.rst = false →
    ∃ v : Word, (s.hostOp (.read .status)).reads = (.reg 0x04, v) :: s.reads ∧ v.getLsbD 0 = s.status.busy ∧
      v.getLsbD 1 = s.status.done

/-- R88: BNZ goes to its label if the value read, masked, is not 0, and else to the next line; the block does not see it. -/
def Obligations.HostBranchTestsTheValueRead : Prop :=
  ∀ (s : State) (l : Loc) (v mask : Word) (target : Nat), lastRead s.reads l = some v →
    s.hostOp (.bnz l mask target) = { s with pc := if v &&& mask = 0 then s.pc + 1 else target }

/-! ### Headlines -/

/-- The invariant holds after power-up and reset, for every legal MEM_SIZE and every canonical content of MEM. -/
def Obligations.PowerUpMeetsTheInvariant : Prop :=
  (∀ (p : Config.Params) (m : Memory), p.wf = true → m.wf → (∀ c ∈ m, c.1 < p.memSize) → (State.powerUp p m).Inv) ∧
    State.reset.Inv

/-- Every step keeps the invariant, from every state that meets it. -/
def Obligations.EveryStepKeepsTheInvariant : Prop :=
  ∀ s t : State, s.Inv → step s = .next t → t.Inv

/-- R38, R71, R221, R226: unless RST intervenes, every command in flight completes after finitely many steps, and whatever
turns and host accesses come before its completion, its output, OUT_LEN, ERR, CFGW and HIB are those that `Execute(L)` of R86
gives at its start. (The bound rests on the model's schedule, log 2.) -/
def Obligations.IssuedCommandsCompleteAsIssued : Prop :=
  ∀ s : State, s.status.busy = true → Turn.assertRst ∉ s.sched → s.rst = false →
    ∀ r : Result, r = specExecute s.params.memSize s.mem s.latch →
      ∃ k t, k ≤ s.sched.length + 1 ∧ core.run k s = .next t ∧ t.status.busy = false ∧ t.status.done = true ∧
        t.status.err = r.code ∧ t.status.cfgw = r.cfgw ∧ t.status.hib = r.hib ∧
        t.outLen = BitVec.ofNat 32 (if r.code = .ok then r.n else 0) ∧
        t.mem = (if r.code = .ok then s.mem.writeSeq s.latch.dst.toNat r.out else s.mem)

/-- R162: a successful PACK from A to B, then NIBZ from B to C, then FRAME from C to D, writes at D the bytes that PNF writes
from A to D, with the same OUT_LEN, CFGW and HIB. The sequence also leaves what PACK wrote at B (until FRAME) and the payload
at C; PNF writes the message only. -/
def Obligations.PnfEqualsPackThenNibzThenFrame : Prop :=
  ∀ (s s₁ s₂ s₃ t : State) (A B C D : Word),
    s.runCommand .pack A 2048 B = .next s₁ → s₁.status.err = .ok →
    s₁.runCommand .nibz B 1032 C = .next s₂ → s₂.status.err = .ok →
    s₂.runCommand .frame C 2064 D = .next s₃ → s₃.status.err = .ok →
    s.runCommand .pnf A 2048 D = .next t → t.status.err = .ok →
    s₃.outLen = t.outLen ∧ s₃.status.cfgw = t.status.cfgw ∧ s₃.status.hib = t.status.hib ∧
      (∀ k, k < t.outLen.toNat → s₃.mem.read (D.toNat + k) = t.mem.read (D.toNat + k)) ∧
      (∀ k, k < 1032 → s₂.mem.read (B.toNat + k) = s₁.mem.read (B.toNat + k)) ∧
      (∀ k, k < 2064 → s₃.mem.read (C.toNat + k) = s₂.mem.read (C.toNat + k)) ∧
      ∀ a, ¬(D.toNat ≤ a ∧ a < D.toNat + t.outLen.toNat) → t.mem.read a = s.mem.read a

/-! ### Free values -/

/-- R62, R63, R71, R210, R211: a step that takes a free value takes the one of the present count, or for a reset during a
command those from it on, and moves the count past every one it took; a read that takes none returns what is stored. The
count is the model's own (log 8); that VIOL is free after a write above MEM_SIZE while BUSY = 1 is log 10, that a branch on a
location never read tests a free word is log 15, and which bytes a reset leaves open is log 12. -/
def Obligations.FreeValuesAreTakenOnce : Prop :=
  (∀ (s : State) (wd : Width) (o : Nat) (w : Word), (s.hostOp (.rwr wd o w)).draws = s.draws) ∧
  (∀ (s : State) (wd : Width) (o : Nat),
    if s.rst = true ∨ ¬(wd = .w32 ∧ o % 4 = 0 ∧ o ≤ 0xFC) then
      (s.hostOp (.rrd wd o)).reads = (.reg o, Config.freeWord s.draws) :: s.reads ∧
        (s.hostOp (.rrd wd o)).draws = s.draws + 1
    else
      (s.hostOp (.rrd wd o)).reads = (.reg o, s.readOffset o) :: s.reads ∧ (s.hostOp (.rrd wd o)).draws = s.draws) ∧
  (∀ (s : State) (a : Nat),
    if s.rst = true ∨ s.status.busy = true ∨ s.params.memSize ≤ a then
      (s.hostOp (.mrd a)).reads = (.mem a, (Config.freeByte s.draws).setWidth 32) :: s.reads ∧
        (s.hostOp (.mrd a)).draws = s.draws + 1
    else
      (s.hostOp (.mrd a)).reads = (.mem a, (s.mem.read a).setWidth 32) :: s.reads ∧
        (s.hostOp (.mrd a)).draws = s.draws) ∧
  (∀ (s : State) (a : Nat) (v : Byte),
    if s.rst = false ∧ s.status.busy = true ∧ s.params.memSize ≤ a then
      (s.hostOp (.mwr a v)).status.viol = (s.status.viol || Config.freeBit s.draws) ∧
        (s.hostOp (.mwr a v)).draws = s.draws + 1
    else (s.hostOp (.mwr a v)).draws = s.draws) ∧
  (∀ (s : State) (l : Loc) (mask : Word) (target : Nat),
    if lastRead s.reads l = none then
      (s.hostOp (.bnz l mask target)).pc = (if Config.freeWord s.draws &&& mask = 0 then s.pc + 1 else target) ∧
        (s.hostOp (.bnz l mask target)).draws = s.draws + 1
    else (s.hostOp (.bnz l mask target)).draws = s.draws) ∧
  (∀ s t : State, step s = .next t → s.turn = .assertRst → ∀ a, t.mem.read a ≠ s.mem.read a →
    ∃ k, s.draws ≤ k ∧ k < t.draws ∧ t.mem.read a = Config.freeByte k) ∧
  (∀ s t : State, step s = .next t → s.turn = .engine ∨ s.turn = .deassertRst → t.draws = s.draws)
end

