-- ==== Sys2Proof/Laws/Functions.lean ====
section
/-! SUPPORT. The three pure functions of the source: Pack (R100, R101), Nibblize (R120, R122), BuildMessage (R140, R145). -/

namespace Sys2Proof.Machine

/-- Element `p` of a concatenation of pieces that all have the same length. -/
theorem getElem?_flatMap_of_length {α β : Type} (f : α → List β) {n : Nat} (hn : 0 < n) (l : List α)
    (hl : ∀ x ∈ l, (f x).length = n) (p : Nat) :
    (l.flatMap f)[p]? = l[p / n]?.bind fun x => (f x)[p % n]? := by
  induction l generalizing p with
  | nil => simp
  | cons x l ih =>
    have hx := hl x (by simp)
    rw [List.flatMap_cons]
    by_cases h : p < n
    · rw [List.getElem?_append_left (by omega), Nat.div_eq_of_lt h, Nat.mod_eq_of_lt h]
      simp
    · have hp : p = (p - n) + n := by omega
      rw [List.getElem?_append_right (by omega), hx, ih fun y hy => hl y (by simp [hy])]
      conv_rhs => rw [hp, Nat.add_div_right _ hn, Nat.add_mod_right]
      simp

/-! ### Pack -/

theorem length_cycle {buf : List Byte} (h : buf.length = 2048) {k : Nat} (hk : k < 8) : (cycle buf k).length = 129 := by
  simp [cycle, Config.groupLen]
  omega

/-- Byte `j` of cycle `k` (R101). -/
theorem getElem?_cycle {buf : List Byte} (h : buf.length = 2048) {k j : Nat} (hk : k < 8) (hj : j < 129) :
    (cycle buf k)[j]? = buf[256 * k + if j = 128 then 0 else j]? := by
  have hlen : ((buf.drop (2 * Config.groupLen * k)).take Config.groupLen).length = 128 := by
    simp [Config.groupLen]
    omega
  unfold cycle
  by_cases hj' : j = 128
  · subst hj'
    rw [List.getElem?_append_right (by omega), hlen]
    simp [Config.groupLen]
  · rw [List.getElem?_append_left (by omega)]
    have : j < 128 := by omega
    simp [Config.groupLen, hj', this]

/-- `len(Pack(buf)) = 1032` (R100). -/
theorem length_pack {buf : List Byte} (h : buf.length = 2048) : (pack buf).length = 1032 := by
  have hc (k : Nat) (hk : k < 8) := length_cycle h hk
  simp [pack, Config.nCycles, List.range_succ, hc]

/-- The index form of Pack (R101). -/
theorem getElem?_pack {buf : List Byte} (h : buf.length = 2048) {p : Nat} (hp : p < 1032) :
    (pack buf)[p]? = buf[256 * (p / 129) + if p % 129 = 128 then 0 else p % 129]? := by
  have hk : p / 129 < 8 := by omega
  rw [pack, getElem?_flatMap_of_length (cycle buf) (n := 129) (by omega) _
    (fun k hk => length_cycle h (by simpa [Config.nCycles] using hk))]
  have : (List.range Config.nCycles)[p / 129]? = some (p / 129) := by
    simp [Config.nCycles, hk]
  rw [this]
  exact getElem?_cycle h hk (Nat.mod_lt _ (by omega))

/-! ### Nibblize -/

@[simp] theorem length_nibblize (S : List Byte) : (nibblize S).length = 2 * S.length := by
  induction S with
  | nil => rfl
  | cons b S ih =>
    have : nibblize (b :: S) = nibbles b ++ nibblize S := rfl
    simp [this, nibbles, ih]
    omega

/-- The index form of Nibblize (R120). -/
theorem getElem?_nibblize (S : List Byte) (p : Nat) :
    (nibblize S)[p]? = S[p / 2]?.map fun b : Byte => if p % 2 = 0 then b &&& 0x0F#8 else (b >>> 4) &&& 0x0F#8 := by
  rw [nibblize, getElem?_flatMap_of_length nibbles (n := 2) (by omega) _ fun _ _ => rfl]
  rcases S[p / 2]? with _ | b
  · rfl
  · rcases Nat.mod_two_eq_zero_or_one p with h | h <;> simp [nibbles, h]

/-- `(b >> 4) & 0x0F` equals `b >> 4` (R120). -/
theorem shiftRight_and_mask (b : Byte) : (b >>> 4) &&& 0x0F#8 = b >>> 4 := by
  revert b
  decide

/-- Every output byte of Nibblize is < 0x10 (R122). -/
theorem lt_of_mem_nibblize {S : List Byte} {x : Byte} (h : x ∈ nibblize S) : x.toNat < 0x10 := by
  obtain ⟨b, -, hb⟩ := List.mem_flatMap.1 h
  have lo (b : Byte) : (b &&& 0x0F#8).toNat < 0x10 := by
    revert b
    decide
  rcases List.mem_cons.1 hb with rfl | hb
  · exact lo b
  · rw [List.mem_singleton.1 hb]
    exact lo (b >>> 4)

/-! ### BuildMessage -/

@[simp] theorem length_buildMessage (m d c p : List Byte) :
    (buildMessage m d c p).length = 2 + (m.length + d.length + c.length + p.length) := by
  simp [buildMessage]
  omega

/-- The interior bytes of a message are the header groups and the payload (R140, R143). -/
theorem interior_buildMessage (m d c p : List Byte) : (buildMessage m d c p).tail.dropLast = m ++ d ++ c ++ p := by
  rw [buildMessage, List.tail_cons, List.dropLast_concat]

/-- HIB of a message: some framed header byte or payload byte is ≥ 0x80 (R143, R145). -/
theorem hiB_buildMessage (m d c p : List Byte) :
    hiB (buildMessage m d c p) = (m ++ d ++ c ++ p).any fun b => decide (0x80 ≤ b.toNat) := by
  rw [hiB, interior_buildMessage]

theorem length_mfrBytes {L : Latch} (h : L.overCapacity = false) : L.mfrBytes.length = L.mlen.toNat := by
  simp [Latch.overCapacity, Config.hdrCap] at h
  simp [Latch.mfrBytes]
  omega

theorem length_devBytes {L : Latch} (h : L.overCapacity = false) : L.devBytes.length = L.dlen.toNat := by
  simp [Latch.overCapacity, Config.hdrCap] at h
  simp [Latch.devBytes]
  omega

theorem length_cmdBytes {L : Latch} (h : L.overCapacity = false) : L.cmdBytes.length = L.clen.toNat := by
  simp [Latch.overCapacity, Config.hdrCap] at h
  simp [Latch.cmdBytes]
  omega

/-- The length of the message a latch frames (R144, R161). -/
theorem length_message {L : Latch} (h : L.overCapacity = false) (p : List Byte) :
    (L.message p).length = 2 + L.headerLen + p.length := by
  rw [Latch.message, length_buildMessage, length_mfrBytes h, length_devBytes h, length_cmdBytes h, Latch.headerLen]
  omega

end Sys2Proof.Machine
end

