-- ==== Sys2Proof/Laws/Memory.lean ====
section
/-! SUPPORT. MEM: a read returns the last write, every operation keeps the canonical form and the address range, and two
canonical memories that read alike are equal. -/

namespace Sys2Proof.Machine

/-! ### Reading what was written -/

theorem Memory.read_erase_self (m : Memory) (a : Nat) : (m.erase a).read a = Memory.unlisted := by
  induction m with
  | nil => rfl
  | cons c m ih =>
    by_cases h : c.1 = a
    · simpa [Memory.erase, h] using ih
    · have : Memory.erase (c :: m) a = c :: Memory.erase m a := by simp [Memory.erase, h]
      simp [this, Memory.read, h, ih]

theorem Memory.read_erase_of_ne (m : Memory) {a b : Nat} (h : b ≠ a) : (m.erase a).read b = m.read b := by
  induction m with
  | nil => rfl
  | cons c m ih =>
    by_cases hc : c.1 = a
    · have : Memory.erase (c :: m) a = Memory.erase m a := by simp [Memory.erase, hc]
      have hb : c.1 ≠ b := fun e => h (e ▸ hc)
      simp [this, Memory.read, hb, ih]
    · have : Memory.erase (c :: m) a = c :: Memory.erase m a := by simp [Memory.erase, hc]
      simp [this, Memory.read, ih]

theorem Memory.read_insert_self (m : Memory) (a : Nat) (v : Byte) (h : ∀ c ∈ m, c.1 ≠ a) :
    (m.insert a v).read a = v := by
  induction m with
  | nil => simp [Memory.insert, Memory.read]
  | cons c m ih =>
    rw [Memory.insert]
    split
    · simp [Memory.read]
    · simp [Memory.read, h c (by simp), ih fun d hd => h d (by simp [hd])]

theorem Memory.read_insert_of_ne (m : Memory) {a b : Nat} (v : Byte) (h : b ≠ a) :
    (m.insert a v).read b = m.read b := by
  induction m with
  | nil => simp [Memory.insert, Memory.read, h.symm]
  | cons c m ih =>
    rw [Memory.insert]
    split
    · simp [Memory.read, h.symm]
    · simp [Memory.read, ih]

theorem Memory.ne_of_mem_erase {m : Memory} {a : Nat} {c : Host.Cell} (h : c ∈ m.erase a) : c.1 ≠ a := by
  simpa using (List.mem_filter.1 h).2

/-- A read returns the last write to its address, and a write leaves every other address alone (R70). -/
theorem Memory.read_write (m : Memory) (a b : Nat) (v : Byte) :
    (m.write a v).read b = if b = a then v else m.read b := by
  unfold Memory.write
  by_cases hb : b = a
  · subst hb
    by_cases hv : v = Memory.unlisted
    · simp [hv, Memory.read_erase_self]
    · simp [hv, Memory.read_insert_self _ _ _ fun c hc => Memory.ne_of_mem_erase hc]
  · by_cases hv : v = Memory.unlisted
    · simp [hv, hb, Memory.read_erase_of_ne m hb]
    · simp [hv, hb, Memory.read_insert_of_ne _ _ hb, Memory.read_erase_of_ne m hb]

/-- What `MemWrite` leaves at every address: the written bytes in their range, the old bytes outside it. -/
theorem Memory.read_writeSeq (m : Memory) (a : Nat) (v : List Byte) (b : Nat) :
    (m.writeSeq a v).read b = if a ≤ b ∧ b < a + v.length then v.getD (b - a) 0 else m.read b := by
  induction v generalizing m a with
  | nil =>
    simp [Memory.writeSeq]
  | cons x v ih =>
    rw [Memory.writeSeq, ih, Memory.read_write]
    by_cases hab : b = a
    · subst hab
      simp
    · by_cases h : a + 1 ≤ b ∧ b < a + 1 + v.length
      · obtain ⟨k, rfl⟩ : ∃ k, b = a + 1 + k := ⟨b - (a + 1), by omega⟩
        have h1 : a ≤ a + 1 + k ∧ a + 1 + k < a + (x :: v).length := by simp; omega
        have h2 : a + 1 + k - a = k + 1 := by omega
        have h3 : a + 1 + k - (a + 1) = k := by omega
        rw [if_pos h, if_pos h1, h2, h3]
        simp
      · have h1 : ¬(a ≤ b ∧ b < a + (x :: v).length) := by simp; omega
        rw [if_neg h, if_neg hab, if_neg h1]

@[simp] theorem Memory.length_readSeq (m : Memory) (a n : Nat) : (m.readSeq a n).length = n := by
  induction n generalizing a with
  | zero => rfl
  | succ n ih => simp [Memory.readSeq, ih]

theorem Memory.getElem?_readSeq (m : Memory) (a n i : Nat) :
    (m.readSeq a n)[i]? = if i < n then some (m.read (a + i)) else none := by
  induction n generalizing a i with
  | zero => simp [Memory.readSeq]
  | succ n ih =>
    cases i with
    | zero => simp [Memory.readSeq]
    | succ i => simp [Memory.readSeq, ih, Nat.add_assoc, Nat.add_comm 1 i]

/-- Two memories that read alike in a range give the same byte sequence. -/
theorem Memory.readSeq_congr {m m' : Memory} {a a' n : Nat} (h : ∀ i < n, m.read (a + i) = m'.read (a' + i)) :
    m.readSeq a n = m'.readSeq a' n := by
  apply List.ext_getElem?
  intro i
  rw [Memory.getElem?_readSeq, Memory.getElem?_readSeq]
  split
  · rw [h i ‹_›]
  · rfl

/-- `MemRead` of just what `MemWrite` wrote. -/
theorem Memory.readSeq_writeSeq (m : Memory) (a : Nat) (v : List Byte) : (m.writeSeq a v).readSeq a v.length = v := by
  apply List.ext_getElem?
  intro i
  rw [Memory.getElem?_readSeq, Memory.read_writeSeq]
  by_cases h : i < v.length
  · have h1 : a ≤ a + i ∧ a + i < a + v.length := by omega
    rw [if_pos h, if_pos h1, Nat.add_sub_cancel_left, List.getElem?_eq_getElem h]
    simp [List.getD, h]
  · rw [if_neg h]
    simp only [not_lt] at h
    exact (List.getElem?_eq_none h).symm

/-! ### The canonical form and the address range -/

theorem Memory.mem_insert {m : Memory} {a : Nat} {v : Byte} {c : Host.Cell} :
    c ∈ m.insert a v ↔ c = (a, v) ∨ c ∈ m := by
  induction m with
  | nil => simp [Memory.insert]
  | cons d m ih =>
    rw [Memory.insert]
    split
    · simp
    · simp [ih, or_left_comm]

theorem Memory.mem_of_mem_erase {m : Memory} {a : Nat} {c : Host.Cell} (h : c ∈ m.erase a) : c ∈ m :=
  (List.mem_filter.1 h).1

theorem Memory.pairwise_insert {m : Memory} {a : Nat} {v : Byte} (hs : m.Pairwise fun c d => c.1 < d.1)
    (ha : ∀ c ∈ m, c.1 ≠ a) : (m.insert a v).Pairwise fun c d => c.1 < d.1 := by
  induction m with
  | nil => simp [Memory.insert]
  | cons c m ih =>
    rw [List.pairwise_cons] at hs
    rw [Memory.insert]
    split
    · rename_i hlt
      refine List.pairwise_cons.2 ⟨?_, List.pairwise_cons.2 hs⟩
      intro d hd
      rcases List.mem_cons.1 hd with rfl | hd
      · exact hlt
      · exact Nat.lt_trans hlt (hs.1 d hd)
    · rename_i hlt
      refine List.pairwise_cons.2 ⟨?_, ih hs.2 fun d hd => ha d (by simp [hd])⟩
      intro d hd
      rcases Memory.mem_insert.1 hd with rfl | hd
      · have := ha c (by simp)
        show c.1 < a
        omega
      · exact hs.1 d hd

/-- `MEM[a] <- v` keeps the canonical form. -/
theorem Memory.wf_write {m : Memory} (h : m.wf) (a : Nat) (v : Byte) : (m.write a v).wf := by
  have he : (m.erase a).Pairwise fun c d => c.1 < d.1 := h.1.filter _
  have hn : ∀ c ∈ m.erase a, c.2 ≠ Memory.unlisted := fun c hc => h.2 c (Memory.mem_of_mem_erase hc)
  unfold Memory.write
  split
  · exact ⟨he, hn⟩
  · rename_i hv
    refine ⟨Memory.pairwise_insert he fun c hc => Memory.ne_of_mem_erase hc, fun c hc => ?_⟩
    rcases Memory.mem_insert.1 hc with rfl | hc
    · exact hv
    · exact hn c hc

/-- `MemWrite` keeps the canonical form. -/
theorem Memory.wf_writeSeq {m : Memory} (h : m.wf) (a : Nat) (v : List Byte) : (m.writeSeq a v).wf := by
  induction v generalizing m a with
  | nil => exact h
  | cons b v ih => exact ih (Memory.wf_write h a b) (a + 1)

/-- `MEM[a] <- v` lists no address but `a` that was not listed. -/
theorem Memory.mem_write {m : Memory} {a : Nat} {v : Byte} {c : Host.Cell} (h : c ∈ m.write a v) : c.1 = a ∨ c ∈ m := by
  unfold Memory.write at h
  split at h
  · exact .inr (Memory.mem_of_mem_erase h)
  · rcases Memory.mem_insert.1 h with rfl | h
    · exact .inl rfl
    · exact .inr (Memory.mem_of_mem_erase h)

/-- `MemWrite` inside a range keeps every address in that range. -/
theorem Memory.inRange_writeSeq {m : Memory} {a k : Nat} {v : List Byte} (h : ∀ c ∈ m, c.1 < k)
    (hv : a + v.length ≤ k) : ∀ c ∈ m.writeSeq a v, c.1 < k := by
  induction v generalizing m a with
  | nil => exact h
  | cons b v ih =>
    simp only [List.length_cons] at hv
    refine ih (fun c hc => ?_) (by omega)
    rcases Memory.mem_write hc with hc | hc
    · omega
    · exact h c hc

/-! ### Equal memories are equal data -/

theorem Memory.read_of_lt {m : Memory} {a : Nat} (h : ∀ c ∈ m, a < c.1) : m.read a = Memory.unlisted := by
  induction m with
  | nil => rfl
  | cons c m ih =>
    have hc : c.1 ≠ a := by
      have := h c (by simp)
      omega
    rw [Memory.read, if_neg hc]
    exact ih fun d hd => h d (by simp [hd])

/-- Two canonical memories that read alike at every address are equal. -/
theorem Memory.ext_read {m m' : Memory} (h : m.wf) (h' : m'.wf) (hr : ∀ a, m.read a = m'.read a) : m = m' := by
  induction m generalizing m' with
  | nil =>
    cases m' with
    | nil => rfl
    | cons d m' =>
      have := hr d.1
      simp only [Memory.read, if_pos] at this
      exact absurd this.symm (h'.2 d (by simp))
  | cons c m ih =>
    obtain ⟨hs, hn⟩ := h
    rw [List.pairwise_cons] at hs
    cases m' with
    | nil =>
      have := hr c.1
      simp only [Memory.read, if_pos] at this
      exact absurd this (hn c (by simp))
    | cons d m' =>
      obtain ⟨hs', hn'⟩ := h'
      rw [List.pairwise_cons] at hs'
      have hcd : c.1 = d.1 := by
        rcases Nat.lt_trichotomy c.1 d.1 with hlt | heq | hlt
        · have h1 := hr c.1
          rw [Memory.read, if_pos rfl, Memory.read_of_lt] at h1
          · exact absurd h1 (hn c (by simp))
          · intro e he
            rcases List.mem_cons.1 he with rfl | he
            · exact hlt
            · exact Nat.lt_trans hlt (hs'.1 e he)
        · exact heq
        · have h1 := hr d.1
          rw [Memory.read.eq_def (d :: m'), Memory.read_of_lt] at h1
          · simp only [if_pos] at h1
            exact absurd h1.symm (hn' d (by simp))
          · intro e he
            rcases List.mem_cons.1 he with rfl | he
            · exact hlt
            · exact Nat.lt_trans hlt (hs.1 e he)
      have hv : c.2 = d.2 := by
        have := hr c.1
        simpa [Memory.read, hcd] using this
      have hce : c = d := Prod.ext hcd hv
      subst hce
      refine congrArg (c :: ·) (ih ⟨hs.2, fun e he => hn e (by simp [he])⟩ ⟨hs'.2, fun e he => hn' e (by simp [he])⟩ ?_)
      intro a
      by_cases ha : c.1 = a
      · subst ha
        rw [Memory.read_of_lt hs.1, Memory.read_of_lt hs'.1]
      · have := hr a
        simpa [Memory.read, ha] using this

end Sys2Proof.Machine
end

