-- ==== Sys2Proof/Laws/State.lean ====
section
/-! SUPPORT. One lemma per field per update of the state, each true by rfl. -/

namespace Sys2Proof.Machine

/-! ### logRead -/

@[simp] theorem State.logRead_params (s : State) (l : Loc) (v : Word) :
    (s.logRead l v).params = s.params := rfl
@[simp] theorem State.logRead_ctrl (s : State) (l : Loc) (v : Word) :
    (s.logRead l v).ctrl = s.ctrl := rfl
@[simp] theorem State.logRead_status (s : State) (l : Loc) (v : Word) :
    (s.logRead l v).status = s.status := rfl
@[simp] theorem State.logRead_srcAddr (s : State) (l : Loc) (v : Word) :
    (s.logRead l v).srcAddr = s.srcAddr := rfl
@[simp] theorem State.logRead_srcLen (s : State) (l : Loc) (v : Word) :
    (s.logRead l v).srcLen = s.srcLen := rfl
@[simp] theorem State.logRead_dstAddr (s : State) (l : Loc) (v : Word) :
    (s.logRead l v).dstAddr = s.dstAddr := rfl
@[simp] theorem State.logRead_outLen (s : State) (l : Loc) (v : Word) :
    (s.logRead l v).outLen = s.outLen := rfl
@[simp] theorem State.logRead_hdrLen (s : State) (l : Loc) (v : Word) :
    (s.logRead l v).hdrLen = s.hdrLen := rfl
@[simp] theorem State.logRead_mfrId (s : State) (l : Loc) (v : Word) :
    (s.logRead l v).mfrId = s.mfrId := rfl
@[simp] theorem State.logRead_devId (s : State) (l : Loc) (v : Word) :
    (s.logRead l v).devId = s.devId := rfl
@[simp] theorem State.logRead_cmdId (s : State) (l : Loc) (v : Word) :
    (s.logRead l v).cmdId = s.cmdId := rfl
@[simp] theorem State.logRead_latch (s : State) (l : Loc) (v : Word) :
    (s.logRead l v).latch = s.latch := rfl
@[simp] theorem State.logRead_mem (s : State) (l : Loc) (v : Word) :
    (s.logRead l v).mem = s.mem := rfl
@[simp] theorem State.logRead_rst (s : State) (l : Loc) (v : Word) :
    (s.logRead l v).rst = s.rst := rfl
@[simp] theorem State.logRead_prog (s : State) (l : Loc) (v : Word) :
    (s.logRead l v).prog = s.prog := rfl
@[simp] theorem State.logRead_pc (s : State) (l : Loc) (v : Word) :
    (s.logRead l v).pc = s.pc := rfl
@[simp] theorem State.logRead_reads (s : State) (l : Loc) (v : Word) :
    (s.logRead l v).reads = (l, v) :: s.reads := rfl
@[simp] theorem State.logRead_sched (s : State) (l : Loc) (v : Word) :
    (s.logRead l v).sched = s.sched := rfl
@[simp] theorem State.logRead_draws (s : State) (l : Loc) (v : Word) :
    (s.logRead l v).draws = s.draws := rfl

/-! ### drawn -/

@[simp] theorem State.drawn_params (s : State) (n : Nat) :
    (s.drawn n).params = s.params := rfl
@[simp] theorem State.drawn_ctrl (s : State) (n : Nat) :
    (s.drawn n).ctrl = s.ctrl := rfl
@[simp] theorem State.drawn_status (s : State) (n : Nat) :
    (s.drawn n).status = s.status := rfl
@[simp] theorem State.drawn_srcAddr (s : State) (n : Nat) :
    (s.drawn n).srcAddr = s.srcAddr := rfl
@[simp] theorem State.drawn_srcLen (s : State) (n : Nat) :
    (s.drawn n).srcLen = s.srcLen := rfl
@[simp] theorem State.drawn_dstAddr (s : State) (n : Nat) :
    (s.drawn n).dstAddr = s.dstAddr := rfl
@[simp] theorem State.drawn_outLen (s : State) (n : Nat) :
    (s.drawn n).outLen = s.outLen := rfl
@[simp] theorem State.drawn_hdrLen (s : State) (n : Nat) :
    (s.drawn n).hdrLen = s.hdrLen := rfl
@[simp] theorem State.drawn_mfrId (s : State) (n : Nat) :
    (s.drawn n).mfrId = s.mfrId := rfl
@[simp] theorem State.drawn_devId (s : State) (n : Nat) :
    (s.drawn n).devId = s.devId := rfl
@[simp] theorem State.drawn_cmdId (s : State) (n : Nat) :
    (s.drawn n).cmdId = s.cmdId := rfl
@[simp] theorem State.drawn_latch (s : State) (n : Nat) :
    (s.drawn n).latch = s.latch := rfl
@[simp] theorem State.drawn_mem (s : State) (n : Nat) :
    (s.drawn n).mem = s.mem := rfl
@[simp] theorem State.drawn_rst (s : State) (n : Nat) :
    (s.drawn n).rst = s.rst := rfl
@[simp] theorem State.drawn_prog (s : State) (n : Nat) :
    (s.drawn n).prog = s.prog := rfl
@[simp] theorem State.drawn_pc (s : State) (n : Nat) :
    (s.drawn n).pc = s.pc := rfl
@[simp] theorem State.drawn_reads (s : State) (n : Nat) :
    (s.drawn n).reads = s.reads := rfl
@[simp] theorem State.drawn_sched (s : State) (n : Nat) :
    (s.drawn n).sched = s.sched := rfl
@[simp] theorem State.drawn_draws (s : State) (n : Nat) :
    (s.drawn n).draws = s.draws + n := rfl

/-! ### drawWord -/

@[simp] theorem State.drawWord_params (s : State) (l : Loc) :
    (s.drawWord l).params = s.params := rfl
@[simp] theorem State.drawWord_ctrl (s : State) (l : Loc) :
    (s.drawWord l).ctrl = s.ctrl := rfl
@[simp] theorem State.drawWord_status (s : State) (l : Loc) :
    (s.drawWord l).status = s.status := rfl
@[simp] theorem State.drawWord_srcAddr (s : State) (l : Loc) :
    (s.drawWord l).srcAddr = s.srcAddr := rfl
@[simp] theorem State.drawWord_srcLen (s : State) (l : Loc) :
    (s.drawWord l).srcLen = s.srcLen := rfl
@[simp] theorem State.drawWord_dstAddr (s : State) (l : Loc) :
    (s.drawWord l).dstAddr = s.dstAddr := rfl
@[simp] theorem State.drawWord_outLen (s : State) (l : Loc) :
    (s.drawWord l).outLen = s.outLen := rfl
@[simp] theorem State.drawWord_hdrLen (s : State) (l : Loc) :
    (s.drawWord l).hdrLen = s.hdrLen := rfl
@[simp] theorem State.drawWord_mfrId (s : State) (l : Loc) :
    (s.drawWord l).mfrId = s.mfrId := rfl
@[simp] theorem State.drawWord_devId (s : State) (l : Loc) :
    (s.drawWord l).devId = s.devId := rfl
@[simp] theorem State.drawWord_cmdId (s : State) (l : Loc) :
    (s.drawWord l).cmdId = s.cmdId := rfl
@[simp] theorem State.drawWord_latch (s : State) (l : Loc) :
    (s.drawWord l).latch = s.latch := rfl
@[simp] theorem State.drawWord_mem (s : State) (l : Loc) :
    (s.drawWord l).mem = s.mem := rfl
@[simp] theorem State.drawWord_rst (s : State) (l : Loc) :
    (s.drawWord l).rst = s.rst := rfl
@[simp] theorem State.drawWord_prog (s : State) (l : Loc) :
    (s.drawWord l).prog = s.prog := rfl
@[simp] theorem State.drawWord_pc (s : State) (l : Loc) :
    (s.drawWord l).pc = s.pc := rfl
@[simp] theorem State.drawWord_reads (s : State) (l : Loc) :
    (s.drawWord l).reads = (l, Config.freeWord s.draws) :: s.reads := rfl
@[simp] theorem State.drawWord_sched (s : State) (l : Loc) :
    (s.drawWord l).sched = s.sched := rfl
@[simp] theorem State.drawWord_draws (s : State) (l : Loc) :
    (s.drawWord l).draws = s.draws + 1 := rfl

/-! ### drawByte -/

@[simp] theorem State.drawByte_params (s : State) (l : Loc) :
    (s.drawByte l).params = s.params := rfl
@[simp] theorem State.drawByte_ctrl (s : State) (l : Loc) :
    (s.drawByte l).ctrl = s.ctrl := rfl
@[simp] theorem State.drawByte_status (s : State) (l : Loc) :
    (s.drawByte l).status = s.status := rfl
@[simp] theorem State.drawByte_srcAddr (s : State) (l : Loc) :
    (s.drawByte l).srcAddr = s.srcAddr := rfl
@[simp] theorem State.drawByte_srcLen (s : State) (l : Loc) :
    (s.drawByte l).srcLen = s.srcLen := rfl
@[simp] theorem State.drawByte_dstAddr (s : State) (l : Loc) :
    (s.drawByte l).dstAddr = s.dstAddr := rfl
@[simp] theorem State.drawByte_outLen (s : State) (l : Loc) :
    (s.drawByte l).outLen = s.outLen := rfl
@[simp] theorem State.drawByte_hdrLen (s : State) (l : Loc) :
    (s.drawByte l).hdrLen = s.hdrLen := rfl
@[simp] theorem State.drawByte_mfrId (s : State) (l : Loc) :
    (s.drawByte l).mfrId = s.mfrId := rfl
@[simp] theorem State.drawByte_devId (s : State) (l : Loc) :
    (s.drawByte l).devId = s.devId := rfl
@[simp] theorem State.drawByte_cmdId (s : State) (l : Loc) :
    (s.drawByte l).cmdId = s.cmdId := rfl
@[simp] theorem State.drawByte_latch (s : State) (l : Loc) :
    (s.drawByte l).latch = s.latch := rfl
@[simp] theorem State.drawByte_mem (s : State) (l : Loc) :
    (s.drawByte l).mem = s.mem := rfl
@[simp] theorem State.drawByte_rst (s : State) (l : Loc) :
    (s.drawByte l).rst = s.rst := rfl
@[simp] theorem State.drawByte_prog (s : State) (l : Loc) :
    (s.drawByte l).prog = s.prog := rfl
@[simp] theorem State.drawByte_pc (s : State) (l : Loc) :
    (s.drawByte l).pc = s.pc := rfl
@[simp] theorem State.drawByte_reads (s : State) (l : Loc) :
    (s.drawByte l).reads = (l, (Config.freeByte s.draws).setWidth 32) :: s.reads := rfl
@[simp] theorem State.drawByte_sched (s : State) (l : Loc) :
    (s.drawByte l).sched = s.sched := rfl
@[simp] theorem State.drawByte_draws (s : State) (l : Loc) :
    (s.drawByte l).draws = s.draws + 1 := rfl

/-! ### issue -/

@[simp] theorem State.issue_params (s : State) (w : Word) :
    (s.issue w).params = s.params := rfl
@[simp] theorem State.issue_ctrl (s : State) (w : Word) :
    (s.issue w).ctrl = s.ctrl := rfl
@[simp] theorem State.issue_status (s : State) (w : Word) :
    (s.issue w).status = s.status.issued := rfl
@[simp] theorem State.issue_srcAddr (s : State) (w : Word) :
    (s.issue w).srcAddr = s.srcAddr := rfl
@[simp] theorem State.issue_srcLen (s : State) (w : Word) :
    (s.issue w).srcLen = s.srcLen := rfl
@[simp] theorem State.issue_dstAddr (s : State) (w : Word) :
    (s.issue w).dstAddr = s.dstAddr := rfl
@[simp] theorem State.issue_outLen (s : State) (w : Word) :
    (s.issue w).outLen = 0 := rfl
@[simp] theorem State.issue_hdrLen (s : State) (w : Word) :
    (s.issue w).hdrLen = s.hdrLen := rfl
@[simp] theorem State.issue_mfrId (s : State) (w : Word) :
    (s.issue w).mfrId = s.mfrId := rfl
@[simp] theorem State.issue_devId (s : State) (w : Word) :
    (s.issue w).devId = s.devId := rfl
@[simp] theorem State.issue_cmdId (s : State) (w : Word) :
    (s.issue w).cmdId = s.cmdId := rfl
@[simp] theorem State.issue_latch (s : State) (w : Word) :
    (s.issue w).latch = s.latchOf w := rfl
@[simp] theorem State.issue_mem (s : State) (w : Word) :
    (s.issue w).mem = s.mem := rfl
@[simp] theorem State.issue_rst (s : State) (w : Word) :
    (s.issue w).rst = s.rst := rfl
@[simp] theorem State.issue_prog (s : State) (w : Word) :
    (s.issue w).prog = s.prog := rfl
@[simp] theorem State.issue_pc (s : State) (w : Word) :
    (s.issue w).pc = s.pc := rfl
@[simp] theorem State.issue_reads (s : State) (w : Word) :
    (s.issue w).reads = s.reads := rfl
@[simp] theorem State.issue_sched (s : State) (w : Word) :
    (s.issue w).sched = s.sched := rfl
@[simp] theorem State.issue_draws (s : State) (w : Word) :
    (s.issue w).draws = s.draws := rfl

/-! ### violate -/

@[simp] theorem State.violate_params (s : State) :
    s.violate.params = s.params := rfl
@[simp] theorem State.violate_ctrl (s : State) :
    s.violate.ctrl = s.ctrl := rfl
@[simp] theorem State.violate_status (s : State) :
    s.violate.status = { s.status with viol := true } := rfl
@[simp] theorem State.violate_srcAddr (s : State) :
    s.violate.srcAddr = s.srcAddr := rfl
@[simp] theorem State.violate_srcLen (s : State) :
    s.violate.srcLen = s.srcLen := rfl
@[simp] theorem State.violate_dstAddr (s : State) :
    s.violate.dstAddr = s.dstAddr := rfl
@[simp] theorem State.violate_outLen (s : State) :
    s.violate.outLen = s.outLen := rfl
@[simp] theorem State.violate_hdrLen (s : State) :
    s.violate.hdrLen = s.hdrLen := rfl
@[simp] theorem State.violate_mfrId (s : State) :
    s.violate.mfrId = s.mfrId := rfl
@[simp] theorem State.violate_devId (s : State) :
    s.violate.devId = s.devId := rfl
@[simp] theorem State.violate_cmdId (s : State) :
    s.violate.cmdId = s.cmdId := rfl
@[simp] theorem State.violate_latch (s : State) :
    s.violate.latch = s.latch := rfl
@[simp] theorem State.violate_mem (s : State) :
    s.violate.mem = s.mem := rfl
@[simp] theorem State.violate_rst (s : State) :
    s.violate.rst = s.rst := rfl
@[simp] theorem State.violate_prog (s : State) :
    s.violate.prog = s.prog := rfl
@[simp] theorem State.violate_pc (s : State) :
    s.violate.pc = s.pc := rfl
@[simp] theorem State.violate_reads (s : State) :
    s.violate.reads = s.reads := rfl
@[simp] theorem State.violate_sched (s : State) :
    s.violate.sched = s.sched := rfl
@[simp] theorem State.violate_draws (s : State) :
    s.violate.draws = s.draws := rfl

/-! ### maybeViolate -/

@[simp] theorem State.maybeViolate_params (s : State) :
    s.maybeViolate.params = s.params := rfl
@[simp] theorem State.maybeViolate_ctrl (s : State) :
    s.maybeViolate.ctrl = s.ctrl := rfl
@[simp] theorem State.maybeViolate_status (s : State) :
    s.maybeViolate.status = { s.status with viol := s.status.viol || Config.freeBit s.draws } := rfl
@[simp] theorem State.maybeViolate_srcAddr (s : State) :
    s.maybeViolate.srcAddr = s.srcAddr := rfl
@[simp] theorem State.maybeViolate_srcLen (s : State) :
    s.maybeViolate.srcLen = s.srcLen := rfl
@[simp] theorem State.maybeViolate_dstAddr (s : State) :
    s.maybeViolate.dstAddr = s.dstAddr := rfl
@[simp] theorem State.maybeViolate_outLen (s : State) :
    s.maybeViolate.outLen = s.outLen := rfl
@[simp] theorem State.maybeViolate_hdrLen (s : State) :
    s.maybeViolate.hdrLen = s.hdrLen := rfl
@[simp] theorem State.maybeViolate_mfrId (s : State) :
    s.maybeViolate.mfrId = s.mfrId := rfl
@[simp] theorem State.maybeViolate_devId (s : State) :
    s.maybeViolate.devId = s.devId := rfl
@[simp] theorem State.maybeViolate_cmdId (s : State) :
    s.maybeViolate.cmdId = s.cmdId := rfl
@[simp] theorem State.maybeViolate_latch (s : State) :
    s.maybeViolate.latch = s.latch := rfl
@[simp] theorem State.maybeViolate_mem (s : State) :
    s.maybeViolate.mem = s.mem := rfl
@[simp] theorem State.maybeViolate_rst (s : State) :
    s.maybeViolate.rst = s.rst := rfl
@[simp] theorem State.maybeViolate_prog (s : State) :
    s.maybeViolate.prog = s.prog := rfl
@[simp] theorem State.maybeViolate_pc (s : State) :
    s.maybeViolate.pc = s.pc := rfl
@[simp] theorem State.maybeViolate_reads (s : State) :
    s.maybeViolate.reads = s.reads := rfl
@[simp] theorem State.maybeViolate_sched (s : State) :
    s.maybeViolate.sched = s.sched := rfl
@[simp] theorem State.maybeViolate_draws (s : State) :
    s.maybeViolate.draws = s.draws + 1 := rfl

/-! ### raise -/

@[simp] theorem State.raise_params (s : State) (c : ErrCode) (w h : Bool) :
    (s.raise c w h).params = s.params := rfl
@[simp] theorem State.raise_ctrl (s : State) (c : ErrCode) (w h : Bool) :
    (s.raise c w h).ctrl = s.ctrl := rfl
@[simp] theorem State.raise_status (s : State) (c : ErrCode) (w h : Bool) :
    (s.raise c w h).status = s.status.completed c w h := rfl
@[simp] theorem State.raise_srcAddr (s : State) (c : ErrCode) (w h : Bool) :
    (s.raise c w h).srcAddr = s.srcAddr := rfl
@[simp] theorem State.raise_srcLen (s : State) (c : ErrCode) (w h : Bool) :
    (s.raise c w h).srcLen = s.srcLen := rfl
@[simp] theorem State.raise_dstAddr (s : State) (c : ErrCode) (w h : Bool) :
    (s.raise c w h).dstAddr = s.dstAddr := rfl
@[simp] theorem State.raise_outLen (s : State) (c : ErrCode) (w h : Bool) :
    (s.raise c w h).outLen = 0 := rfl
@[simp] theorem State.raise_hdrLen (s : State) (c : ErrCode) (w h : Bool) :
    (s.raise c w h).hdrLen = s.hdrLen := rfl
@[simp] theorem State.raise_mfrId (s : State) (c : ErrCode) (w h : Bool) :
    (s.raise c w h).mfrId = s.mfrId := rfl
@[simp] theorem State.raise_devId (s : State) (c : ErrCode) (w h : Bool) :
    (s.raise c w h).devId = s.devId := rfl
@[simp] theorem State.raise_cmdId (s : State) (c : ErrCode) (w h : Bool) :
    (s.raise c w h).cmdId = s.cmdId := rfl
@[simp] theorem State.raise_latch (s : State) (c : ErrCode) (w h : Bool) :
    (s.raise c w h).latch = s.latch := rfl
@[simp] theorem State.raise_mem (s : State) (c : ErrCode) (w h : Bool) :
    (s.raise c w h).mem = s.mem := rfl
@[simp] theorem State.raise_rst (s : State) (c : ErrCode) (w h : Bool) :
    (s.raise c w h).rst = s.rst := rfl
@[simp] theorem State.raise_prog (s : State) (c : ErrCode) (w h : Bool) :
    (s.raise c w h).prog = s.prog := rfl
@[simp] theorem State.raise_pc (s : State) (c : ErrCode) (w h : Bool) :
    (s.raise c w h).pc = s.pc := rfl
@[simp] theorem State.raise_reads (s : State) (c : ErrCode) (w h : Bool) :
    (s.raise c w h).reads = s.reads := rfl
@[simp] theorem State.raise_sched (s : State) (c : ErrCode) (w h : Bool) :
    (s.raise c w h).sched = s.sched := rfl
@[simp] theorem State.raise_draws (s : State) (c : ErrCode) (w h : Bool) :
    (s.raise c w h).draws = s.draws := rfl

/-! ### commit -/

@[simp] theorem State.commit_params (s : State) (n : Nat) (out : List Byte) (w h : Bool) :
    (s.commit n out w h).params = s.params := rfl
@[simp] theorem State.commit_ctrl (s : State) (n : Nat) (out : List Byte) (w h : Bool) :
    (s.commit n out w h).ctrl = s.ctrl := rfl
@[simp] theorem State.commit_status (s : State) (n : Nat) (out : List Byte) (w h : Bool) :
    (s.commit n out w h).status = s.status.completed .ok w h := rfl
@[simp] theorem State.commit_srcAddr (s : State) (n : Nat) (out : List Byte) (w h : Bool) :
    (s.commit n out w h).srcAddr = s.srcAddr := rfl
@[simp] theorem State.commit_srcLen (s : State) (n : Nat) (out : List Byte) (w h : Bool) :
    (s.commit n out w h).srcLen = s.srcLen := rfl
@[simp] theorem State.commit_dstAddr (s : State) (n : Nat) (out : List Byte) (w h : Bool) :
    (s.commit n out w h).dstAddr = s.dstAddr := rfl
@[simp] theorem State.commit_outLen (s : State) (n : Nat) (out : List Byte) (w h : Bool) :
    (s.commit n out w h).outLen = BitVec.ofNat 32 n := rfl
@[simp] theorem State.commit_hdrLen (s : State) (n : Nat) (out : List Byte) (w h : Bool) :
    (s.commit n out w h).hdrLen = s.hdrLen := rfl
@[simp] theorem State.commit_mfrId (s : State) (n : Nat) (out : List Byte) (w h : Bool) :
    (s.commit n out w h).mfrId = s.mfrId := rfl
@[simp] theorem State.commit_devId (s : State) (n : Nat) (out : List Byte) (w h : Bool) :
    (s.commit n out w h).devId = s.devId := rfl
@[simp] theorem State.commit_cmdId (s : State) (n : Nat) (out : List Byte) (w h : Bool) :
    (s.commit n out w h).cmdId = s.cmdId := rfl
@[simp] theorem State.commit_latch (s : State) (n : Nat) (out : List Byte) (w h : Bool) :
    (s.commit n out w h).latch = s.latch := rfl
@[simp] theorem State.commit_mem (s : State) (n : Nat) (out : List Byte) (w h : Bool) :
    (s.commit n out w h).mem = s.mem.writeSeq s.latch.dst.toNat out := rfl
@[simp] theorem State.commit_rst (s : State) (n : Nat) (out : List Byte) (w h : Bool) :
    (s.commit n out w h).rst = s.rst := rfl
@[simp] theorem State.commit_prog (s : State) (n : Nat) (out : List Byte) (w h : Bool) :
    (s.commit n out w h).prog = s.prog := rfl
@[simp] theorem State.commit_pc (s : State) (n : Nat) (out : List Byte) (w h : Bool) :
    (s.commit n out w h).pc = s.pc := rfl
@[simp] theorem State.commit_reads (s : State) (n : Nat) (out : List Byte) (w h : Bool) :
    (s.commit n out w h).reads = s.reads := rfl
@[simp] theorem State.commit_sched (s : State) (n : Nat) (out : List Byte) (w h : Bool) :
    (s.commit n out w h).sched = s.sched := rfl
@[simp] theorem State.commit_draws (s : State) (n : Nat) (out : List Byte) (w h : Bool) :
    (s.commit n out w h).draws = s.draws := rfl

/-! ### resetRegs -/

@[simp] theorem State.resetRegs_params (s : State) :
    s.resetRegs.params = s.params := rfl
@[simp] theorem State.resetRegs_ctrl (s : State) :
    s.resetRegs.ctrl = Ctrl.reset := rfl
@[simp] theorem State.resetRegs_status (s : State) :
    s.resetRegs.status = Status.reset := rfl
@[simp] theorem State.resetRegs_srcAddr (s : State) :
    s.resetRegs.srcAddr = 0 := rfl
@[simp] theorem State.resetRegs_srcLen (s : State) :
    s.resetRegs.srcLen = 0 := rfl
@[simp] theorem State.resetRegs_dstAddr (s : State) :
    s.resetRegs.dstAddr = 0 := rfl
@[simp] theorem State.resetRegs_outLen (s : State) :
    s.resetRegs.outLen = 0 := rfl
@[simp] theorem State.resetRegs_hdrLen (s : State) :
    s.resetRegs.hdrLen = HdrLen.reset := rfl
@[simp] theorem State.resetRegs_mfrId (s : State) :
    s.resetRegs.mfrId = resetMfr s.params := rfl
@[simp] theorem State.resetRegs_devId (s : State) :
    s.resetRegs.devId = resetDev s.params := rfl
@[simp] theorem State.resetRegs_cmdId (s : State) :
    s.resetRegs.cmdId = resetCmd s.params := rfl
@[simp] theorem State.resetRegs_latch (s : State) :
    s.resetRegs.latch = s.latch := rfl
@[simp] theorem State.resetRegs_mem (s : State) :
    s.resetRegs.mem = s.mem := rfl
@[simp] theorem State.resetRegs_rst (s : State) :
    s.resetRegs.rst = s.rst := rfl
@[simp] theorem State.resetRegs_prog (s : State) :
    s.resetRegs.prog = s.prog := rfl
@[simp] theorem State.resetRegs_pc (s : State) :
    s.resetRegs.pc = s.pc := rfl
@[simp] theorem State.resetRegs_reads (s : State) :
    s.resetRegs.reads = s.reads := rfl
@[simp] theorem State.resetRegs_sched (s : State) :
    s.resetRegs.sched = s.sched := rfl
@[simp] theorem State.resetRegs_draws (s : State) :
    s.resetRegs.draws = s.draws := rfl

/-! ### abandon -/

@[simp] theorem State.abandon_params (s : State) :
    s.abandon.params = s.params := rfl
@[simp] theorem State.abandon_ctrl (s : State) :
    s.abandon.ctrl = s.ctrl := rfl
@[simp] theorem State.abandon_status (s : State) :
    s.abandon.status = s.status := rfl
@[simp] theorem State.abandon_srcAddr (s : State) :
    s.abandon.srcAddr = s.srcAddr := rfl
@[simp] theorem State.abandon_srcLen (s : State) :
    s.abandon.srcLen = s.srcLen := rfl
@[simp] theorem State.abandon_dstAddr (s : State) :
    s.abandon.dstAddr = s.dstAddr := rfl
@[simp] theorem State.abandon_outLen (s : State) :
    s.abandon.outLen = s.outLen := rfl
@[simp] theorem State.abandon_hdrLen (s : State) :
    s.abandon.hdrLen = s.hdrLen := rfl
@[simp] theorem State.abandon_mfrId (s : State) :
    s.abandon.mfrId = s.mfrId := rfl
@[simp] theorem State.abandon_devId (s : State) :
    s.abandon.devId = s.devId := rfl
@[simp] theorem State.abandon_cmdId (s : State) :
    s.abandon.cmdId = s.cmdId := rfl
@[simp] theorem State.abandon_latch (s : State) :
    s.abandon.latch = s.latch := rfl
@[simp] theorem State.abandon_mem (s : State) :
    s.abandon.mem = s.mem.writeSeq s.latch.dst.toNat ((List.range s.abandonedLen).map fun i => Config.freeByte (s.draws + i)) := rfl
@[simp] theorem State.abandon_rst (s : State) :
    s.abandon.rst = s.rst := rfl
@[simp] theorem State.abandon_prog (s : State) :
    s.abandon.prog = s.prog := rfl
@[simp] theorem State.abandon_pc (s : State) :
    s.abandon.pc = s.pc := rfl
@[simp] theorem State.abandon_reads (s : State) :
    s.abandon.reads = s.reads := rfl
@[simp] theorem State.abandon_sched (s : State) :
    s.abandon.sched = s.sched := rfl
@[simp] theorem State.abandon_draws (s : State) :
    s.abandon.draws = s.draws + s.abandonedLen := rfl

/-! ### advance -/

@[simp] theorem State.advance_params (s : State) :
    s.advance.params = s.params := rfl
@[simp] theorem State.advance_ctrl (s : State) :
    s.advance.ctrl = s.ctrl := rfl
@[simp] theorem State.advance_status (s : State) :
    s.advance.status = s.status := rfl
@[simp] theorem State.advance_srcAddr (s : State) :
    s.advance.srcAddr = s.srcAddr := rfl
@[simp] theorem State.advance_srcLen (s : State) :
    s.advance.srcLen = s.srcLen := rfl
@[simp] theorem State.advance_dstAddr (s : State) :
    s.advance.dstAddr = s.dstAddr := rfl
@[simp] theorem State.advance_outLen (s : State) :
    s.advance.outLen = s.outLen := rfl
@[simp] theorem State.advance_hdrLen (s : State) :
    s.advance.hdrLen = s.hdrLen := rfl
@[simp] theorem State.advance_mfrId (s : State) :
    s.advance.mfrId = s.mfrId := rfl
@[simp] theorem State.advance_devId (s : State) :
    s.advance.devId = s.devId := rfl
@[simp] theorem State.advance_cmdId (s : State) :
    s.advance.cmdId = s.cmdId := rfl
@[simp] theorem State.advance_latch (s : State) :
    s.advance.latch = s.latch := rfl
@[simp] theorem State.advance_mem (s : State) :
    s.advance.mem = s.mem := rfl
@[simp] theorem State.advance_rst (s : State) :
    s.advance.rst = s.rst := rfl
@[simp] theorem State.advance_prog (s : State) :
    s.advance.prog = s.prog := rfl
@[simp] theorem State.advance_pc (s : State) :
    s.advance.pc = s.pc + 1 := rfl
@[simp] theorem State.advance_reads (s : State) :
    s.advance.reads = s.reads := rfl
@[simp] theorem State.advance_sched (s : State) :
    s.advance.sched = s.sched := rfl
@[simp] theorem State.advance_draws (s : State) :
    s.advance.draws = s.draws := rfl

/-! ### popTurn -/

@[simp] theorem State.popTurn_params (s : State) :
    s.popTurn.params = s.params := rfl
@[simp] theorem State.popTurn_ctrl (s : State) :
    s.popTurn.ctrl = s.ctrl := rfl
@[simp] theorem State.popTurn_status (s : State) :
    s.popTurn.status = s.status := rfl
@[simp] theorem State.popTurn_srcAddr (s : State) :
    s.popTurn.srcAddr = s.srcAddr := rfl
@[simp] theorem State.popTurn_srcLen (s : State) :
    s.popTurn.srcLen = s.srcLen := rfl
@[simp] theorem State.popTurn_dstAddr (s : State) :
    s.popTurn.dstAddr = s.dstAddr := rfl
@[simp] theorem State.popTurn_outLen (s : State) :
    s.popTurn.outLen = s.outLen := rfl
@[simp] theorem State.popTurn_hdrLen (s : State) :
    s.popTurn.hdrLen = s.hdrLen := rfl
@[simp] theorem State.popTurn_mfrId (s : State) :
    s.popTurn.mfrId = s.mfrId := rfl
@[simp] theorem State.popTurn_devId (s : State) :
    s.popTurn.devId = s.devId := rfl
@[simp] theorem State.popTurn_cmdId (s : State) :
    s.popTurn.cmdId = s.cmdId := rfl
@[simp] theorem State.popTurn_latch (s : State) :
    s.popTurn.latch = s.latch := rfl
@[simp] theorem State.popTurn_mem (s : State) :
    s.popTurn.mem = s.mem := rfl
@[simp] theorem State.popTurn_rst (s : State) :
    s.popTurn.rst = s.rst := rfl
@[simp] theorem State.popTurn_prog (s : State) :
    s.popTurn.prog = s.prog := rfl
@[simp] theorem State.popTurn_pc (s : State) :
    s.popTurn.pc = s.pc := rfl
@[simp] theorem State.popTurn_reads (s : State) :
    s.popTurn.reads = s.reads := rfl
@[simp] theorem State.popTurn_sched (s : State) :
    s.popTurn.sched = s.sched.tail := rfl
@[simp] theorem State.popTurn_draws (s : State) :
    s.popTurn.draws = s.draws := rfl

/-! ### STATUS updates -/

@[simp] theorem Status.issued_busy (t : Status) : t.issued.busy = true := rfl
@[simp] theorem Status.issued_done (t : Status) : t.issued.done = false := rfl
@[simp] theorem Status.issued_err (t : Status) : t.issued.err = .ok := rfl
@[simp] theorem Status.issued_cfgw (t : Status) : t.issued.cfgw = false := rfl
@[simp] theorem Status.issued_hib (t : Status) : t.issued.hib = false := rfl
@[simp] theorem Status.issued_viol (t : Status) : t.issued.viol = t.viol := rfl
@[simp] theorem Status.completed_busy (t : Status) (c : ErrCode) (w h : Bool) : (t.completed c w h).busy = false := rfl
@[simp] theorem Status.completed_done (t : Status) (c : ErrCode) (w h : Bool) : (t.completed c w h).done = true := rfl
@[simp] theorem Status.completed_err (t : Status) (c : ErrCode) (w h : Bool) : (t.completed c w h).err = c := rfl
@[simp] theorem Status.completed_cfgw (t : Status) (c : ErrCode) (w h : Bool) : (t.completed c w h).cfgw = w := rfl
@[simp] theorem Status.completed_hib (t : Status) (c : ErrCode) (w h : Bool) : (t.completed c w h).hib = h := rfl
@[simp] theorem Status.completed_viol (t : Status) (c : ErrCode) (w h : Bool) : (t.completed c w h).viol = t.viol := rfl
@[simp] theorem Status.writeOneToClear_busy (t : Status) (w : Word) : (t.writeOneToClear w).busy = t.busy := rfl
@[simp] theorem Status.writeOneToClear_done (t : Status) (w : Word) :
    (t.writeOneToClear w).done = (t.done && !w.getLsbD 1) := rfl
@[simp] theorem Status.writeOneToClear_err (t : Status) (w : Word) : (t.writeOneToClear w).err = t.err := rfl
@[simp] theorem Status.writeOneToClear_cfgw (t : Status) (w : Word) : (t.writeOneToClear w).cfgw = t.cfgw := rfl
@[simp] theorem Status.writeOneToClear_hib (t : Status) (w : Word) : (t.writeOneToClear w).hib = t.hib := rfl
@[simp] theorem Status.writeOneToClear_viol (t : Status) (w : Word) :
    (t.writeOneToClear w).viol = (t.viol && !w.getLsbD 10) := rfl

end Sys2Proof.Machine
end

