-- ==== Sys2Proof/Laws/Ops.lean ====
section
/-! SUPPORT. What the shared operations do: the range checks, the completion step, the commands' results, the host's accesses,
and the step. Proofs about the machine cite these instead of unfolding it. -/

namespace Sys2Proof.Machine

/-! ### The command word -/

/-- The word latched at issue is the word written. -/
@[simp] theorem word_latchOf (s : State) (w : Word) : (s.latchOf w).word = w := by
  simp only [Latch.word, State.latchOf, opField, rsvField]
  apply BitVec.eq_of_getLsbD_eq
  intro i hi
  rw [BitVec.getLsbD_append, BitVec.getLsbD_extractLsb', BitVec.getLsbD_extractLsb']
  by_cases h : i < 8
  · simp [h]
  · have h1 : 8 + (i - 8) = i := by omega
    have h2 : i - 8 < 24 := by omega
    simp [h, h1, h2]

/-- Decoding the word of an instruction gives the instruction. -/
@[simp] theorem decode_encode (i : Instr) : decode (encode i) = .ok i := by
  cases i <;> rfl

/-! ### The range checks -/

/-- The ranges pass: no error, exactly when both lie in MEM and they share no byte (R183 to R185). -/
theorem Latch.rangeError_eq_none {L : Latch} {memSize n : Nat} :
    L.rangeError memSize n = none ↔
      L.src.toNat + L.len.toNat ≤ memSize ∧ L.dst.toNat + n ≤ memSize ∧
        overlaps L.src.toNat L.len.toNat L.dst.toNat n = false := by
  unfold Latch.rangeError
  split
  · simp
    omega
  · split
    · simp
      omega
    · split <;> simp_all

/-- Both range checks pass (R183, R184). -/
theorem Latch.inRange_eq_true {L : Latch} {memSize n : Nat} :
    L.inRange memSize n = true ↔ L.src.toNat + L.len.toNat ≤ memSize ∧ L.dst.toNat + n ≤ memSize := by
  simp [Latch.inRange]

/-- The range that a reset leaves unspecified lies in MEM (R211). -/
theorem abandonedLen_inRange (s : State) :
    s.abandonedLen = 0 ∨ s.latch.dst.toNat + s.abandonedLen ≤ s.params.memSize := by
  unfold State.abandonedLen
  split
  · split
    · exact .inr (Latch.inRange_eq_true.1 ‹_›).2
    · exact .inl rfl
  · exact .inl rfl

/-- What asserting RST leaves at every address: a free value in the output range of an abandoned command, the old byte
elsewhere (R211, R212). -/
theorem read_assertRst (s : State) (a : Nat) :
    s.assertRst.mem.read a =
      if s.status.busy = true ∧ s.latch.dst.toNat ≤ a ∧ a < s.latch.dst.toNat + s.abandonedLen
      then Config.freeByte (s.draws + (a - s.latch.dst.toNat)) else s.mem.read a := by
  cases hb : s.status.busy
  · simp [State.assertRst, hb]
  · simp only [State.assertRst, hb, if_true, State.resetRegs_mem, State.abandon_mem, Memory.read_writeSeq,
      List.length_map, List.length_range, true_and]
    split
    · rename_i h
      have : a - s.latch.dst.toNat < s.abandonedLen := by omega
      simp [List.getD, this]
    · rfl

/-- A range error is one of the three range codes. -/
theorem Latch.rangeError_code {L : Latch} {memSize n : Nat} {e : ErrCode} (h : L.rangeError memSize n = some e) :
    e = .srcRange ∨ e = .dstRange ∨ e = .overlap := by
  unfold Latch.rangeError at h
  split at h
  · simp_all
  · split at h
    · simp_all
    · split at h <;> simp_all

/-! ### Results of commands -/

/-- What `Execute(L)` returns for each command, from its own rule. -/
def commandResult : Instr → State → Result
  | .pack, s => packResult s
  | .nibz, s => nibzResult s
  | .frame, s => frameResult s
  | .pnf, s => pnfResult s

/-- What `Execute(L)` returns for the latched word. -/
def latchedResult (s : State) : Result :=
  match decode s.latch.word with
  | .ok i => commandResult i s
  | .error _ => .error .illegalCommand

/-- Every command's meaning is the completion step with its result. -/
theorem exec_eq (i : Instr) (s : State) : exec i s = .next (s.complete (commandResult i s)) := by
  cases i <;> rfl

/-- The engine's step is the completion step with the result of the latched word. -/
theorem completeLatched_eq (s : State) : completeLatched s = .next (s.complete (latchedResult s)) := by
  unfold completeLatched latchedResult
  cases decode s.latch.word with
  | ok i => exact exec_eq i s
  | error _ => rfl

/-- All that a result can be: a success whose output has its length and fits in MEM; ConfigurationError with a cause; or an
error found before the message was built. -/
inductive Result.Shape (s : State) : Result → Prop where
  | success {n : Nat} {out : List Byte} {cfgw hib : Bool} (hlen : out.length = n)
      (hdst : s.latch.dst.toNat + n ≤ s.params.memSize) : Result.Shape s ⟨.ok, n, out, cfgw, hib⟩
  | configuration {cfgw hib : Bool} (cause : (cfgw || hib) = true) :
      Result.Shape s ⟨.configurationError, 0, [], cfgw, hib⟩
  | early {code : ErrCode} (hok : code ≠ .ok) (hcfg : code ≠ .configurationError) : Result.Shape s (.error code)

theorem shape_of_rangeError {s : State} {n : Nat} {e : ErrCode} (h : s.latch.rangeError s.params.memSize n = some e) :
    Result.Shape s (.error e) := by
  rcases Latch.rangeError_code h with rfl | rfl | rfl <;> exact .early (by decide) (by decide)

theorem shape_framed {s : State} {n : Nat} {out : List Byte} (hlen : out.length = n)
    (hdst : s.latch.dst.toNat + n ≤ s.params.memSize) : Result.Shape s (framed s.latch n out) := by
  unfold framed
  split
  · rename_i h
    simp only [Bool.and_eq_true] at h
    exact .configuration h.2
  · exact .success hlen hdst

theorem length_source (s : State) : s.source.length = s.latch.len.toNat := by
  simp [State.source]

/-- Every command's result has one of the three shapes. -/
theorem shape_commandResult (i : Instr) (s : State) : Result.Shape s (commandResult i s) := by
  cases i with
  | pack =>
    simp only [commandResult, packResult]
    split
    · exact .early (by decide) (by decide)
    · rename_i hlen
      simp only [ne_eq, not_not] at hlen
      split
      · exact shape_of_rangeError ‹_›
      · rename_i h
        refine .success ?_ (Latch.rangeError_eq_none.1 h).2.1
        rw [length_pack (by rw [length_source, hlen, Config.wtLen])]
        rfl
  | nibz =>
    simp only [commandResult, nibzResult]
    split
    · exact shape_of_rangeError ‹_›
    · rename_i h
      exact .success (by rw [length_nibblize, length_source]) (Latch.rangeError_eq_none.1 h).2.1
  | frame =>
    simp only [commandResult, frameResult]
    split
    · exact .early (by decide) (by decide)
    · rename_i hcap
      simp only [Bool.not_eq_true] at hcap
      split
      · exact shape_of_rangeError ‹_›
      · rename_i h
        exact shape_framed (by rw [length_message hcap, length_source]) (Latch.rangeError_eq_none.1 h).2.1
  | pnf =>
    simp only [commandResult, pnfResult]
    split
    · exact .early (by decide) (by decide)
    · rename_i hcap
      simp only [Bool.not_eq_true] at hcap
      split
      · exact .early (by decide) (by decide)
      · rename_i hlen
        simp only [ne_eq, not_not] at hlen
        split
        · exact shape_of_rangeError ‹_›
        · rename_i h
          refine shape_framed ?_ (Latch.rangeError_eq_none.1 h).2.1
          rw [length_message hcap, length_nibblize, length_pack (by rw [length_source, hlen, Config.wtLen])]
          simp only [Config.nibPackLen]
          omega

/-- The latched word's result has one of the three shapes too. -/
theorem shape_latchedResult (s : State) : Result.Shape s (latchedResult s) := by
  unfold latchedResult
  split
  · exact shape_commandResult _ s
  · exact .early (by decide) (by decide)

/-- A command's result depends on the latch, MEM and MEM_SIZE alone (R71). -/
theorem commandResult_congr (i : Instr) {s t : State} (hl : t.latch = s.latch) (hm : t.mem = s.mem)
    (hp : t.params = s.params) : commandResult i t = commandResult i s := by
  cases i <;> simp [commandResult, packResult, nibzResult, frameResult, pnfResult, State.source, hl, hm, hp]

theorem latchedResult_congr {s t : State} (hl : t.latch = s.latch) (hm : t.mem = s.mem) (hp : t.params = s.params) :
    latchedResult t = latchedResult s := by
  unfold latchedResult
  rw [hl]
  cases decode s.latch.word with
  | ok i => exact commandResult_congr i hl hm hp
  | error _ => rfl

/-! ### The completion step -/

theorem complete_ok {s : State} {r : Result} (h : r.code = .ok) : s.complete r = s.commit r.n r.out r.cfgw r.hib :=
  if_pos h

theorem complete_error {s : State} {r : Result} (h : r.code ≠ .ok) : s.complete r = s.raise r.code r.cfgw r.hib :=
  if_neg h

/-- The state after `raise` is the error state of R190. -/
theorem raise_eq_errorState (s : State) (c : ErrCode) (w h : Bool) : s.raise c w h = s.errorState c w h := rfl

/-- The state after `commit` is the success state of R87. -/
theorem commit_eq_successState (s : State) (n : Nat) (out : List Byte) (w h : Bool) :
    s.commit n out w h = s.successState (s.mem.writeSeq s.latch.dst.toNat out) n w h := rfl

/-- STATUS after the completion step (R87). -/
theorem complete_status (s : State) (r : Result) : (s.complete r).status = s.status.completed r.code r.cfgw r.hib := by
  unfold State.complete
  split
  · rename_i h
    rw [h]
    rfl
  · rfl

/-- The completion step changes MEM, OUT_LEN and STATUS and nothing else. -/
theorem complete_frame (s : State) (r : Result) :
    s.complete r = { s with mem := (s.complete r).mem, outLen := (s.complete r).outLen, status := (s.complete r).status } := by
  unfold State.complete
  split <;> rfl

/-! ### The host's accesses -/

/-- A register write while BUSY = 1: STATUS takes it, OUT_LEN ignores it, every other register drops it (R39). -/
theorem writeReg_busy {s : State} (h : s.status.busy = true) (r : Reg) (w : Word) :
    s.writeReg r w = if r.guarded then s.violate else s.storeReg w r := by
  simp [State.writeReg, h]

/-- A register write while BUSY = 0 is stored (R23). -/
theorem writeReg_idle {s : State} (h : s.status.busy = false) (r : Reg) (w : Word) : s.writeReg r w = s.storeReg w r := by
  simp [State.writeReg, h]

/-- An access of a named register is well formed and reaches it (R23, R63). -/
theorem accessWellFormed_offset (r : Reg) : accessWellFormed .w32 r.offset = true := by
  cases r with
  | mfrId j => revert j; decide
  | devId j => revert j; decide
  | cmdId j => revert j; decide
  | _ => decide

@[simp] theorem ofOffset_offset (r : Reg) : Reg.ofOffset r.offset = some r := by
  cases r with
  | mfrId j => revert j; decide
  | devId j => revert j; decide
  | cmdId j => revert j; decide
  | _ => decide

/-- What a host access can do to the block, by the case of the rule that governs it. -/
inductive HostEffect (s : State) : State → Prop where
  /-- No effect (R34, R62, R63, R210), a branch, or the end of the program. -/
  | none : HostEffect s s
  /-- A value is returned to the host (R42, R61). -/
  | read (l : Loc) (v : Word) : HostEffect s (s.logRead l v)
  /-- A free word or byte is returned to the host (R62, R63, R71, R210). -/
  | drawWord (l : Loc) : HostEffect s (s.drawWord l)
  | drawByte (l : Loc) : HostEffect s (s.drawByte l)
  /-- A register is stored, or the word is issued, with BUSY = 0 (R23, R27). -/
  | store (hrst : s.rst = false) (hidle : s.status.busy = false) (r : Reg) (w : Word) : HostEffect s (s.storeReg w r)
  /-- STATUS is written while BUSY = 1 (R26). -/
  | clear (hrst : s.rst = false) (hbusy : s.status.busy = true) (w : Word) :
      HostEffect s { s with status := s.status.writeOneToClear w }
  /-- A write is dropped (R39, R71). -/
  | violate (hrst : s.rst = false) (hbusy : s.status.busy = true) : HostEffect s s.violate
  | maybeViolate (hrst : s.rst = false) (hbusy : s.status.busy = true) : HostEffect s s.maybeViolate
  /-- A byte of MEM is written (R61). -/
  | mem (hrst : s.rst = false) (hidle : s.status.busy = false) (a : Nat) (ha : a < s.params.memSize) (v : Byte) :
      HostEffect s { s with mem := s.mem.write a v }
  /-- A branch on a location never read draws (log 15). -/
  | drawn : HostEffect s (s.drawn 1)

theorem hostEffect_portWrite (s : State) (wd : Width) (o : Nat) (w : Word) : HostEffect s (s.portWrite wd o w) := by
  unfold State.portWrite
  split
  · exact .none
  · rename_i hrst
    simp only [Bool.not_eq_true] at hrst
    split
    · unfold State.writeOffset
      split
      · rename_i r _
        cases hb : s.status.busy with
        | false =>
          rw [writeReg_idle hb]
          exact .store hrst hb r w
        | true =>
          rw [writeReg_busy hb]
          cases r <;> first | exact .violate hrst hb | exact .clear hrst hb w | exact .none
      · exact .none
    · exact .none

theorem hostEffect_portRead (s : State) (wd : Width) (o : Nat) : HostEffect s (s.portRead wd o) := by
  unfold State.portRead
  split
  · exact .drawWord _
  · split
    · exact .read _ _
    · exact .drawWord _

theorem hostEffect_memWrite (s : State) (a : Nat) (v : Byte) : HostEffect s (s.memWrite a v) := by
  unfold State.memWrite
  split
  · exact .none
  · rename_i hrst
    simp only [Bool.not_eq_true] at hrst
    split
    · rename_i hb
      split
      · exact .violate hrst hb
      · exact .maybeViolate hrst hb
    · rename_i hb
      simp only [Bool.not_eq_true] at hb
      split
      · exact .mem hrst hb a ‹_› v
      · exact .none

theorem hostEffect_memRead (s : State) (a : Nat) : HostEffect s (s.memRead a) := by
  unfold State.memRead
  split
  · exact .drawByte _
  · exact .read _ _

/-- A branch draws at most one free value and sets the pc. -/
theorem branch_eq (s : State) (l : Loc) (mask : Word) (target : Nat) :
    ∃ t pc, HostEffect s t ∧ s.branch l mask target = { t with pc := pc } := by
  unfold State.branch State.branchOn
  split
  · split
    · exact ⟨s, target, .none, rfl⟩
    · exact ⟨s, s.pc + 1, .none, rfl⟩
  · split
    · exact ⟨s.drawn 1, target, .drawn, rfl⟩
    · exact ⟨s.drawn 1, s.pc + 1, .drawn, rfl⟩

/-- A line of the host program has one of the effects above, and sets the pc. -/
theorem hostOp_eq (s : State) (op : HostOp) : ∃ t pc, HostEffect s t ∧ s.hostOp op = { t with pc := pc } := by
  cases op with
  | rwr wd o w => exact ⟨_, _, hostEffect_portWrite s wd o w, rfl⟩
  | rrd wd o => exact ⟨_, _, hostEffect_portRead s wd o, rfl⟩
  | mwr a v => exact ⟨_, _, hostEffect_memWrite s a v, rfl⟩
  | mrd a => exact ⟨_, _, hostEffect_memRead s a, rfl⟩
  | bnz l mask target => exact branch_eq s l mask target

/-- The host's step has one of the effects above, and sets the pc. -/
theorem hostStep_eq (s : State) : ∃ t pc, HostEffect s t ∧ s.hostStep = { t with pc := pc } := by
  unfold State.hostStep
  split
  · exact hostOp_eq s _
  · exact ⟨s, s.pc, .none, rfl⟩

/-- While BUSY = 1 no host access changes the latch, MEM, a register of the commands, BUSY, or the results; only VIOL and
DONE of STATUS can change (R39, R71, R26). -/
theorem HostEffect.busy_frame {s t : State} (h : HostEffect s t) (hb : s.status.busy = true) :
    t.latch = s.latch ∧ t.mem = s.mem ∧ t.params = s.params ∧ t.status.busy = true ∧ t.rst = s.rst ∧ t.sched = s.sched ∧
      t.ctrl = s.ctrl ∧ t.srcAddr = s.srcAddr ∧ t.srcLen = s.srcLen ∧ t.dstAddr = s.dstAddr ∧ t.outLen = s.outLen ∧
      t.hdrLen = s.hdrLen ∧ t.mfrId = s.mfrId ∧ t.devId = s.devId ∧ t.cmdId = s.cmdId ∧
      t.status.err = s.status.err ∧ t.status.cfgw = s.status.cfgw ∧ t.status.hib = s.status.hib ∧
      (t.status.done = true → s.status.done = true) := by
  cases h <;> simp_all

/-! ### The step -/

/-- Everything a step can do, by whose turn it is (R20, R70). -/
theorem step_cases (s : State) :
    (s.turn = .host ∧ step s = .next s.popTurn.hostStep) ∨
    (s.turn = .engine ∧ s.status.busy = false ∧ step s = .next s.popTurn) ∨
    (s.turn = .engine ∧ s.status.busy = true ∧ step s = .next (s.popTurn.complete (latchedResult s.popTurn))) ∨
    (s.turn = .assertRst ∧ step s = .next s.popTurn.assertRst) ∨
    (s.turn = .deassertRst ∧ step s = .next s.popTurn.deassertRst) := by
  unfold step
  cases ht : s.turn with
  | host => exact .inl ⟨rfl, rfl⟩
  | engine =>
    refine .inr ?_
    cases hb : s.status.busy with
    | false => exact .inl ⟨rfl, rfl, by simp [engineStep, hb]⟩
    | true => exact .inr (.inl ⟨rfl, rfl, by simp [engineStep, hb, completeLatched_eq]⟩)
  | assertRst => exact .inr (.inr (.inr (.inl ⟨rfl, rfl⟩)))
  | deassertRst => exact .inr (.inr (.inr (.inr ⟨rfl, rfl⟩)))

/-- Every step has a next state: the block never stops (R191). -/
theorem step_next (s : State) : ∃ t, step s = .next t := by
  rcases step_cases s with ⟨-, h⟩ | ⟨-, -, h⟩ | ⟨-, -, h⟩ | ⟨-, h⟩ | ⟨-, h⟩ <;> exact ⟨_, h⟩

end Sys2Proof.Machine
end

