-- ==== Sys2Proof/Laws/Commands.lean ====
section
/-! SUPPORT. The commands in the terms of Safety.lean: outputs read byte by byte, messages in index form, and the outcomes of
`exec` from a command's result. -/

namespace Sys2Proof.Machine

/-- What a written output leaves at every address, its bytes given in index form. -/
theorem read_output (m : Memory) (d : Nat) {n : Nat} {out : List Byte} {byte : Nat → Byte} (hl : out.length = n)
    (hb : ∀ p < n, out[p]? = some (byte p)) (a : Nat) :
    (m.writeSeq d out).read a = if d ≤ a ∧ a < d + n then byte (a - d) else m.read a := by
  rw [Memory.read_writeSeq, hl]
  split
  · rename_i h
    rw [List.getD, hb (a - d) (by omega)]
    rfl
  · rfl

/-- Ranges that pass give no range error. -/
theorem rangeError_of_rangesPass {s : State} {n : Nat} (h : s.RangesPass n) :
    s.latch.rangeError s.params.memSize n = none := by
  obtain ⟨h1, h2, h3⟩ := h
  refine Latch.rangeError_eq_none.2 ⟨h1, h2, ?_⟩
  rw [Bool.eq_false_iff]
  simp only [overlaps, ne_eq, Bool.and_eq_true, decide_eq_true_eq]
  omega

/-- A command whose result is an early error ends in its error state. -/
theorem exec_of_error {i : Instr} {s : State} {e : ErrCode} (he : e ≠ .ok) (h : commandResult i s = .error e) :
    exec i s = .next (s.errorState e false false) := by
  rw [exec_eq, h, complete_error he]
  rfl

/-- A command that passes on the range errors of `n` output bytes reports them. -/
theorem rangeErrors_of_result {i : Instr} {s : State} {n : Nat}
    (h : ∀ e, s.latch.rangeError s.params.memSize n = some e → commandResult i s = .error e) : RangeErrors i s n := by
  refine ⟨?_, ?_, ?_⟩
  · intro h1
    exact exec_of_error (by decide) (h _ (by rw [Latch.rangeError, if_pos h1]))
  · intro h1 h2
    exact exec_of_error (by decide) (h _ (by rw [Latch.rangeError, if_neg (by omega), if_pos h2]))
  · intro h1 h2 h3 h4 h5 h6
    refine exec_of_error (by decide) (h _ ?_)
    rw [Latch.rangeError, if_neg (by omega), if_neg (by omega), if_pos]
    simp [overlaps]
    omega

/-- A command whose result is a success writes its output. -/
theorem writes_of_result {i : Instr} {s : State} {n : Nat} {out : List Byte} {byte : Nat → Byte} {cfgw hib : Bool}
    (hr : commandResult i s = ⟨.ok, n, out, cfgw, hib⟩) (hl : out.length = n)
    (hb : ∀ p < n, out[p]? = some (byte p)) : Writes i s n byte cfgw hib := by
  refine ⟨s.mem.writeSeq s.latch.dst.toNat out, ?_, read_output _ _ hl hb⟩
  rw [exec_eq, hr, complete_ok rfl]
  rfl

/-- The source bytes in index form. -/
theorem getElem?_source (s : State) (i : Nat) :
    s.source[i]? = if i < s.latch.len.toNat then some (s.mem.read (s.latch.src.toNat + i)) else none :=
  Memory.getElem?_readSeq _ _ _ _

/-- The header lengths fit the arrays (R182). -/
theorem overCapacity_eq_false {L : Latch} :
    L.overCapacity = false ↔ L.mlen.toNat ≤ 16 ∧ L.dlen.toNat ≤ 16 ∧ L.clen.toNat ≤ 16 := by
  simp [Latch.overCapacity, Config.hdrCap]

/-- A message in index form (R140, R141). -/
theorem getElem?_message {L : Latch} (h : L.overCapacity = false) {pl : List Byte} {f : Nat → Byte}
    (hf : ∀ k < pl.length, pl[k]? = some (f k)) {p : Nat} (hp : p < 2 + L.headerLen + pl.length) :
    (L.message pl)[p]? = some (messageByte L f pl.length p) := by
  have hm := length_mfrBytes h
  have hd := length_devBytes h
  have hc := length_cmdBytes h
  have hh := overCapacity_eq_false.1 h
  simp only [Latch.headerLen] at hp
  unfold messageByte Latch.message buildMessage
  cases p with
  | zero => rfl
  | succ p =>
    simp only [List.getElem?_cons_succ, Nat.add_sub_cancel, Nat.succ_ne_zero, if_false]
    split
    · rw [List.getElem?_append_left (by simp; omega), List.getElem?_append_left (by simp; omega),
        List.getElem?_append_left (by simp; omega), List.getElem?_append_left (by omega), Latch.mfrBytes,
        List.getElem?_take_of_lt (by omega), List.getElem?_eq_getElem (by simp; omega),
        List.getD_eq_getElem _ _ (by simp; omega)]
    split
    · have e : p + 1 - (1 + L.mlen.toNat) = p - L.mlen.toNat := by omega
      rw [List.getElem?_append_left (by simp; omega), List.getElem?_append_left (by simp; omega),
        List.getElem?_append_left (by simp; omega), List.getElem?_append_right (by omega), hm, e, Latch.devBytes,
        List.getElem?_take_of_lt (by omega), List.getElem?_eq_getElem (by simp; omega),
        List.getD_eq_getElem _ _ (by simp; omega)]
    split
    · have e : p + 1 - (1 + L.mlen.toNat + L.dlen.toNat) = p - (L.mlen.toNat + L.dlen.toNat) := by omega
      rw [List.getElem?_append_left (by simp; omega), List.getElem?_append_left (by simp; omega),
        List.getElem?_append_right (by simp; omega), List.length_append, hm, hd, e, Latch.cmdBytes,
        List.getElem?_take_of_lt (by omega), List.getElem?_eq_getElem (by simp; omega),
        List.getD_eq_getElem _ _ (by simp; omega)]
    split
    · have e : p + 1 - (1 + L.mlen.toNat + L.dlen.toNat + L.clen.toNat) =
          p - (L.mlen.toNat + L.dlen.toNat + L.clen.toNat) := by omega
      rw [List.getElem?_append_left (by simp; omega), List.getElem?_append_right (by simp; omega)]
      simp only [List.length_append, hm, hd, hc]
      rw [e, hf _ (by omega)]
    · have : p = (L.mfrBytes ++ L.devBytes ++ L.cmdBytes ++ pl).length := by
        simp [hm, hd, hc]
        omega
      subst this
      simp [Config.eox]

/-- HIB of a message in index form: some byte but the first and the last is ≥ 0x80 (R143). -/
theorem hiB_eq_true {out : List Byte} {n : Nat} {byte : Nat → Byte} (hl : out.length = n)
    (hb : ∀ p < n, out[p]? = some (byte p)) :
    hiB out = true ↔ ∃ p, 0 < p ∧ p + 1 < n ∧ 0x80 ≤ (byte p).toNat := by
  have key (q : Nat) : out.tail.dropLast[q]? = if q + 2 < n then out[q + 1]? else none := by
    rw [List.getElem?_dropLast]
    simp only [List.length_tail, hl, List.getElem?_tail]
    by_cases h : q + 2 < n
    · rw [if_pos (by omega), if_pos h]
    · rw [if_neg (by omega), if_neg h]
  rw [hiB, List.any_eq_true]
  constructor
  · rintro ⟨x, hx, hge⟩
    obtain ⟨q, hq⟩ := List.mem_iff_getElem?.1 hx
    rw [key] at hq
    split at hq
    · rw [hb _ (by omega)] at hq
      cases hq
      exact ⟨q + 1, by omega, by omega, by simpa using hge⟩
    · cases hq
  · rintro ⟨p, h0, h1, hge⟩
    refine ⟨byte p, List.mem_iff_getElem?.2 ⟨p - 1, ?_⟩, by simpa using hge⟩
    rw [key, if_pos (by omega), Nat.sub_add_cancel (by omega), hb _ (by omega)]

/-- CFGW says that the header lengths are not 3, 2, 2 (R142). -/
theorem cfgW_eq_true (L : Latch) : cfgW L = true ↔ ¬(L.mlen = 3 ∧ L.dlen = 2 ∧ L.clen = 2) := by
  simp [cfgW, Config.defMfrLen, Config.defDevLen, Config.defCmdLen]

/-- OUT_LEN and MEM after the completion step. -/
theorem complete_output (s : State) (r : Result) :
    (s.complete r).outLen = BitVec.ofNat 32 (if r.code = .ok then r.n else 0) ∧
      (s.complete r).mem = if r.code = .ok then s.mem.writeSeq s.latch.dst.toNat r.out else s.mem := by
  unfold State.complete
  split <;> exact ⟨rfl, rfl⟩

end Sys2Proof.Machine
end

