-- ==== Sys2Proof/Laws/PerInstr.lean ====
section
/-! SUPPORT. Statements about every instruction, one lemma for each constructor. -/

namespace Sys2Proof.Laws.EncodingRoundTrip

/-- The word of a well-formed instruction has RSV = 0 and decodes to it (R80, R81). -/
def Statement (i : Instr) : Prop := i.wf = true → rsvField (encode i) = 0 ∧ decode (encode i) = .ok i

theorem pack : Statement .pack := fun _ => by decide
theorem nibz : Statement .nibz := fun _ => by decide
theorem frame : Statement .frame := fun _ => by decide
theorem pnf : Statement .pnf := fun _ => by decide

end Sys2Proof.Laws.EncodingRoundTrip
end

