-- ==== Sys2Proof/Laws/Registers.lean ====
section
/-! SUPPORT. The register port: an access of a named register, the register words and their fields, and the fields of a
command word. -/

namespace Sys2Proof.Machine

/-! ### Accesses of named registers -/

/-- `RWR <reg>, w` outside reset is a write of that register. -/
theorem hostOp_write {s : State} (hr : s.rst = false) (r : Reg) (w : Word) :
    s.hostOp (.write r w) = (s.writeReg r w).advance := by
  simp [State.hostOp, HostOp.write, State.portWrite, hr, accessWellFormed_offset, State.writeOffset]

/-- `RRD <reg>` outside reset returns that register's value. -/
theorem hostOp_read {s : State} (hr : s.rst = false) (r : Reg) :
    s.hostOp (.read r) = (s.logRead (.reg r.offset) (s.readReg r)).advance := by
  simp [State.hostOp, HostOp.read, State.portRead, hr, accessWellFormed_offset, State.readOffset]

/-- The register at an offset has that offset. -/
theorem offset_of_ofOffset {o : Nat} {r : Reg} (h : Reg.ofOffset o = some r) : o = r.offset := by
  have := List.find?_some h
  simpa using (beq_iff_eq.1 this).symm

/-- No register stands at an offset from 0x50 on (R34). -/
theorem ofOffset_reserved {o : Nat} (h : 0x50 ≤ o) : Reg.ofOffset o = none := by
  rw [Reg.ofOffset, List.find?_eq_none]
  intro r hr
  have hlt : r.offset < 0x50 := (by decide : ∀ r ∈ Reg.all, r.offset < 0x50) r hr
  simp only [beq_iff_eq]
  omega

/-- Write-one-to-clear, bit by bit (R26). -/
theorem writeOneToClear_eq (t : Status) (w : Word) :
    t.writeOneToClear w =
      { t with
        done := if w.getLsbD 1 then false else t.done
        viol := if w.getLsbD 10 then false else t.viol } := by
  simp only [Status.writeOneToClear]
  cases w.getLsbD 1 <;> cases w.getLsbD 10 <;> simp

/-! ### Words and fields -/

/-- A command word is 256·RSV + OP (R80). -/
theorem toNat_eq_fields (w : Word) : w.toNat = 256 * (rsvField w).toNat + (opField w).toNat := by
  simp only [rsvField, opField, BitVec.extractLsb'_toNat, Nat.shiftRight_eq_div_pow]
  have := w.isLt
  omega

@[simp] theorem opField_word (L : Latch) : opField L.word = L.op := by
  apply BitVec.eq_of_getLsbD_eq
  intro k hk
  rw [opField, BitVec.getLsbD_extractLsb', Latch.word, BitVec.getLsbD_append]
  simp [hk]

@[simp] theorem rsvField_word (L : Latch) : rsvField L.word = L.rsv := by
  apply BitVec.eq_of_getLsbD_eq
  intro k hk
  have : ¬8 + k < 8 := by omega
  rw [rsvField, BitVec.getLsbD_extractLsb', Latch.word, BitVec.getLsbD_append]
  simp [hk]

/-- A decoded word has RSV = 0 and the instruction's OP (R81). -/
theorem fields_of_decode {w : Word} {i : Instr} (h : decode w = .ok i) : rsvField w = 0 ∧ opField w = opcode i := by
  unfold decode at h
  split at h
  · cases h
  · rename_i h1
    refine ⟨by simpa using h1, ?_⟩
    split at h
    · cases h; assumption
    split at h
    · cases h; assumption
    split at h
    · cases h; assumption
    split at h
    · cases h; assumption
    · cases h

/-- A written header word reads back (R33). -/
theorem readWord_writeWord (v : Header) (j : Fin 4) (w : Word) : Header.readWord (Header.writeWord v j w) j = w := by
  apply BitVec.eq_of_getLsbD_eq
  intro i hi
  simp only [Header.readWord, Header.writeWord, BitVec.getLsbD_append]
  obtain h | h | h | h : i < 8 ∨ (8 ≤ i ∧ i < 16) ∨ (16 ≤ i ∧ i < 24) ∨ (24 ≤ i ∧ i < 32) := by omega
  · simp [h]
  · have h1 : ¬i < 8 := by omega
    have h2 : i - 8 < 8 := by omega
    have h3 : 8 + (i - 8) = i := by omega
    simp [h1, h2, h3]
  · have h1 : ¬i < 8 := by omega
    have h2 : ¬i - 8 < 8 := by omega
    have h3 : i - 8 - 8 < 8 := by omega
    have h4 : 16 + (i - 8 - 8) = i := by omega
    simp [h1, h2, h3, h4]
  · have h1 : ¬i < 8 := by omega
    have h2 : ¬i - 8 < 8 := by omega
    have h3 : ¬i - 8 - 8 < 8 := by omega
    have h4 : 24 + (i - 8 - 8 - 8) = i := by omega
    have h5 : i - 8 - 8 - 8 < 8 := by omega
    simp [h1, h2, h3, h4, h5]

/-- A header word keeps its value when another one is written (R33). -/
theorem readWord_writeWord_of_ne (v : Header) {j k : Fin 4} (h : k ≠ j) (w : Word) :
    Header.readWord (Header.writeWord v j w) k = Header.readWord v k := by
  have : k.val ≠ j.val := fun e => h (Fin.ext e)
  simp only [Header.readWord, Header.writeWord, Vector.getElem_set]
  congr 1
  · congr 1
    · congr 1 <;> rw [if_neg, if_neg, if_neg, if_neg] <;> omega
    · rw [if_neg, if_neg, if_neg, if_neg] <;> omega
  · rw [if_neg, if_neg, if_neg, if_neg] <;> omega

/-- HDR_LEN reads back the bits of its defined fields (R32). -/
theorem HdrLen.word_ofWord (w : Word) : (HdrLen.ofWord w).word = w &&& 0x001F1F1F := by
  apply BitVec.eq_of_getLsbD_eq
  intro i hi
  simp only [HdrLen.word, HdrLen.ofWord, BitVec.getLsbD_append, BitVec.getLsbD_and, BitVec.getLsbD_extractLsb']
  interval_cases i <;> simp

/-- CTRL reads back the bits of its defined fields (R24). -/
theorem Ctrl.word_ofWord (w : Word) : (Ctrl.ofWord w).word = w &&& 0x00000003 := by
  apply BitVec.eq_of_getLsbD_eq
  intro i hi
  simp only [Ctrl.word, Ctrl.ofWord, BitVec.getLsbD_append, BitVec.getLsbD_and, BitVec.getLsbD_ofBool]
  interval_cases i <;> simp

end Sys2Proof.Machine
end

