-- ==== Sys2Proof/Tests/Slice0.lean ====
section
/-! SUPPORT. Tests of one step, word, check or function, with expected values from spec/95_test_vectors.md or worked out by
hand from the rules named, and a witness for the hypotheses of each statement of Certificates/Slice0/Obligations.lean. -/

namespace Sys2Proof.Tests

open Sys2Proof.Machine

/-! ### Small states -/

/-- Reset, with the example header bytes of 95_test_vectors.md, a host program and a schedule. -/
def idle (ops : List HostOp) (turns : List Turn) : State :=
  { State.reset with
    prog := ops, sched := turns
    mfrId := #v[0x00, 0x21, 0x02, 0, 0, 0, 0, 0, 0, 0, 0, 0, 0, 0, 0, 0]
    devId := #v[0x00, 0x03, 0, 0, 0, 0, 0, 0, 0, 0, 0, 0, 0, 0, 0, 0]
    cmdId := #v[0x01, 0x00, 0, 0, 0, 0, 0, 0, 0, 0, 0, 0, 0, 0, 0, 0] }

/-- `idle` with the word `w` in flight, from the operands given, HDR_LEN `h`, STRICT and the first bytes of MEM. -/
def issued (w src len dst h : Word) (strict : Bool) (bytes : List Byte) (turns : List Turn) : State :=
  ({ idle [] turns with
     srcAddr := src, srcLen := len, dstAddr := dst, hdrLen := HdrLen.ofWord h, ctrl := ⟨false, strict⟩
     mem := Memory.writeSeq [] 0 bytes } : State).issue w

/-- `issued` with HDR_LEN at its reset value, STRICT = 0, no MEM byte written and an empty schedule. -/
def running (i : Instr) (src len dst : Word) : State := issued (encode i) src len dst 0x00020203 false [] []

/-- The state after one step. -/
def after (s : State) : State :=
  match step s with
  | .next t => t
  | _ => s

/-! ### Decoding: words written out bit by bit from R80 and R81, and the illegal words V-CMD-1 to V-CMD-4 -/

theorem test_decode_pack : decode 0b00000000000000000000000000000001#32 = .ok .pack := by decide
theorem test_decode_nibz : decode 0b00000000000000000000000000000010#32 = .ok .nibz := by decide
theorem test_decode_frame : decode 0b00000000000000000000000000000011#32 = .ok .frame := by decide
theorem test_decode_pnf : decode 0b00000000000000000000000000000100#32 = .ok .pnf := by decide
theorem test_decode_zero : decode 0b00000000000000000000000000000000#32 = .error .unknownOpcode := by decide
theorem test_decode_five : decode 0b00000000000000000000000000000101#32 = .error .unknownOpcode := by decide
theorem test_decode_ff : decode 0b00000000000000000000000011111111#32 = .error .unknownOpcode := by decide
theorem test_decode_rsv_low : decode 0b00000000000000000000000100000001#32 = .error .reservedBits := by decide
theorem test_decode_rsv_high : decode 0b10000000000000000000000000000001#32 = .error .reservedBits := by decide

theorem test_decode_table_word :
    decodeTableWord 32 1 = some .pack ∧ decodeTableWord 8 4 = some .pnf ∧ decodeTableWord 32 0x105 = none := by decide

/-- R90: `ISSUE PACK` is `(R, W, 0x08, 0x00000001)`. -/
theorem test_issue_pack_tuple : (issueOps .pack).map HostOp.tuple = [some ⟨.R, .W, 0x08, some 0x00000001⟩] := by decide

/-- R89: the first five writes of P2's SETHDR. -/
theorem test_sethdr : (setHdrOps [0x00, 0x21, 0x02] [0x00, 0x03] [0x01, 0x00]).take 6 =
    [.rwr .w32 0x1C 0x00020203, .rwr .w32 0x20 0x00022100, .rwr .w32 0x24 0, .rwr .w32 0x28 0, .rwr .w32 0x2C 0,
     .rwr .w32 0x30 0x00000300] := by decide

/-! ### Well-formedness: each check refuses an ill-formed term -/

theorem test_wf_params : Config.Params.reference.wf = true := by decide
theorem test_ill_params_empty : Config.Params.wf { Config.Params.reference with memSize := 0 } = false := by decide
theorem test_ill_params_large : Config.Params.wf { Config.Params.reference with memSize := 2 ^ 31 + 1 } = false := by decide
theorem test_wf_instr : Instr.wf .pack && Instr.wf .nibz && Instr.wf .frame && Instr.wf .pnf := by decide
theorem test_wf_access : accessWellFormed .w32 0xFC = true := by decide
theorem test_ill_access_width : accessWellFormed .w16 0x00 = false := by decide
theorem test_ill_access_alignment : accessWellFormed .w32 0x02 = false := by decide
theorem test_ill_access_offset : accessWellFormed .w32 0x100 = false := by decide
theorem test_wf_sethdr : setHdrWellFormed (List.replicate 16 0) [] [] = true := by decide
theorem test_ill_sethdr : setHdrWellFormed [] (List.replicate 17 0) [] = false := by decide
theorem test_wf_memory : Memory.wf [(0, 5), (8191, 1)] := by decide
theorem test_ill_memory_order : ¬Memory.wf [(4, 5), (4, 6)] := by decide
theorem test_ill_memory_zero : ¬Memory.wf [(4, 0)] := by decide

/-! ### Commands: one completion step each -/

/-- V-NIBZ-9. -/
theorem test_nibz :
    let t := after (issued (encode .nibz) 0 3 0x100 0x00020203 false [0xA5, 0x3C, 0x80] [])
    t.mem.readSeq 0x100 6 = [0x05, 0x0A, 0x0C, 0x03, 0x00, 0x08] ∧ t.outLen = 6 ∧ t.status.word = 0x00000002 := by decide

/-- V-NIBZ-13. -/
theorem test_nibz_overlap :
    let t := after (running .nibz 0 16 8)
    t.status.word = 0x00000062 ∧ t.mem = [] ∧ t.outLen = 0 := by decide

/-- The wavetable of V-PACK-3. -/
def ramp : List Byte := (List.range 2048).map fun i => BitVec.ofNat 8 (i / 128 * 16 + i % 16)

/-- V-PACK-3: bytes 127 to 129, 257, 258, 1030 and 1031. -/
theorem test_pack :
    [127, 128, 129, 257, 258, 1030, 1031].map (fun p => (pack ramp)[p]?) =
      [some 0x0F, some 0x00, some 0x20, some 0x20, some 0x40, some 0xEF, some 0xE0] := by
  have h (p : Nat) (hp : p < 1032) :
      (pack ramp)[p]? = some (BitVec.ofNat 8 (packIndex p / 128 * 16 + packIndex p % 16)) := by
    have hi : packIndex p < 2048 := by
      unfold packIndex
      split <;> omega
    rw [getElem?_pack (by simp [ramp]) hp]
    simp only [ramp, List.getElem?_map]
    rw [show 256 * (p / 129) + (if p % 129 = 128 then 0 else p % 129) = packIndex p from rfl,
      List.getElem?_range hi]
    rfl
  simp [h, packIndex]

/-- V-PACK-13. -/
theorem test_pack_order :
    let t := after (running .pack 8000 2047 0)
    t.status.word = 0x00000012 ∧ t.outLen = 0 ∧ t.mem = [] := by decide

/-- V-FRAME-6: a payload byte ≥ 0x80 is framed verbatim with HIB = 1. -/
theorem test_frame :
    let t := after (issued (encode .frame) 0 2 0x100 0x00020203 false [0x05, 0x80] [])
    t.mem.readSeq 0x100 11 = [0xF0, 0x00, 0x21, 0x02, 0x00, 0x03, 0x01, 0x00, 0x05, 0x80, 0xF7] ∧ t.outLen = 11 ∧
      t.status.word = 0x00000202 := by decide

/-- V-FRAME-5: STRICT = 1 and MFR_LEN = 4. -/
theorem test_frame_strict :
    let t := after (issued (encode .frame) 0 2 0x100 0x00020204 true [0x05, 0x0A] [])
    t.status.word = 0x00000122 ∧ t.outLen = 0 ∧ t.mem.read 0x100 = 0 := by decide

/-- V-PNF-6: HeaderCapacity before InvalidInputSize. -/
theorem test_pnf_order :
    (after (issued (encode .pnf) 0 100 0x800 0x00020211 false [] [])).status.word = 0x00000032 := by decide

/-- V-PNF-4. -/
theorem test_pnf_range : (after (running .pnf 0 2048 0x1C31)).status.word = 0x00000052 := by decide

/-- V-CMD-2. -/
theorem test_illegal_word :
    (after (issued 0x00000105 0 0 0 0x00020203 false [] [])).status.word = 0x00000072 := by decide

/-- The step runs a placed word as the first instruction after reset; SRC_LEN is 0, so PACK reports InvalidInputSize. -/
theorem test_placed_word :
    (after (State.reset.withFetchWord 32 1)).status.word = 0x00000012 ∧
      (after (State.reset.withFetchWord 32 2)).status.word = 0x00000002 := by decide

/-! ### Registers, the memory port and the interrupt -/

/-- V-REG-1. -/
theorem test_ctrl_bits : ((idle [] []).hostOp (.write .ctrl 0xFFFFFFFF)).readReg .ctrl = 0x00000003 := by decide

/-- V-REG-2. -/
theorem test_hdr_len_bits : ((idle [] []).hostOp (.write .hdrLen 0xFFFFFFFF)).readReg .hdrLen = 0x001F1F1F := by decide

/-- V-REG-5. -/
theorem test_status_w1c :
    let s : State := { State.reset with status := ⟨false, true, .configurationError, true, false, false⟩ }
    s.status.word = 0x00000122 ∧ (s.hostOp (.write .status 2)).status.word = 0x00000120 := by decide

/-- V-REG-7. -/
theorem test_mfr_id_bytes :
    ((idle [] []).hostOp (.write (.mfrId 0) 0x7F022100)).mfrId.toList.take 4 = [0x00, 0x21, 0x02, 0x7F] := by decide

/-- V-REG-8. -/
theorem test_busy_write :
    let t := (running .pack 0 2048 2048).hostOp (.write .srcLen 5)
    t.srcLen = 2048 ∧ t.status.viol = true := by decide

/-- V-REG-9. -/
theorem test_busy_mwr :
    let t := (running .pack 0 2048 2048).hostOp (.mwr 0x10 0xAA)
    t.mem = [] ∧ t.status.viol = true := by decide

/-- V-REG-4. -/
theorem test_reserved_offset :
    let t := ((running .pack 0 0 0).hostOp (.rwr .w32 0x80 5)).hostOp (.rrd .w32 0x80)
    t.reads = [(.reg 0x80, 0)] ∧ t.status.viol = false := by decide

/-- V-IRQ-1. -/
theorem test_irq :
    let t := after { running .nibz 0 0 0 with ctrl := ⟨true, false⟩ }
    t.irq = true ∧ (t.hostOp (.write .status 2)).irq = false := by decide

/-- P5 (b): the completion comes before the write of SRC_LEN; P5 (a), the write comes first, is `test_busy_write`. -/
theorem test_p5_completion_first :
    let t := (after (running .nibz 0 3 0x100)).hostOp (.write .srcLen 5)
    t.srcLen = 5 ∧ t.status.word = 0x00000002 := by decide

/-! ### Witnesses: for each statement with hypotheses, states and operands that meet all of them, clause by clause -/

/-- A host program of one line, with the host's turn next. -/
def host (op : HostOp) : State := idle [op] [.host]

/-- PACK in flight from 0 to 2048 with one host line and the given turns. -/
def busy (op : HostOp) (turns : List Turn) : State := { running .pack 0 2048 2048 with prog := [op], sched := turns }

/-- RST asserted, with the given turns. -/
def inReset (turns : List Turn) : State := { State.reset with rst := true, sched := turns }

theorem inReset_values (turns : List Turn) : (inReset turns).AtResetValues :=
  ⟨(by decide : Ctrl.reset.word = 0), (by decide : Status.reset.word = 0), rfl, rfl, rfl, rfl, (by decide : HdrLen.reset.word = 0x00020203), rfl, rfl, rfl, rfl⟩

theorem witness_RstReturnsEveryRegisterToItsResetValue :
    State.AtReset (idle [] [.assertRst]) ∧ (idle [] [.assertRst]).status.busy = false ∧
    State.AtReset (busy (.read .ctrl) [.assertRst]) ∧ State.AtReset (inReset [.deassertRst]) ∧
    (inReset [.host]).rst = true ∧ (inReset [.host]).AtResetValues ∧
    (∃ t, step (inReset [.host]) = .next t) ∧ ∃ t, step (inReset [.deassertRst]) = .next t :=
  ⟨by decide, by decide, by decide, by decide, rfl, inReset_values _, step_next _, step_next _⟩

/-- The command's output may end at MEM_SIZE; source and output may each pass it by one byte. -/
theorem witness_ResetDuringACommandLeavesOnlyItsOutputRangeOpen :
    let ok := { running .pack 6144 2048 7160 with sched := [.assertRst] }
    let src := { running .pack 6145 2048 0 with sched := [.assertRst] }
    let dst := { running .pack 0 2048 7161 with sched := [.assertRst] }
    (ok.turn = .assertRst ∧ ok.status.busy = true ∧ ok.latch.src.toNat + ok.latch.len.toNat = ok.params.memSize ∧
      ok.latch.dst.toNat + outLenOf .pack ok.latch = ok.params.memSize) ∧
    (src.turn = .assertRst ∧ src.status.busy = true ∧ src.params.memSize < src.latch.src.toNat + src.latch.len.toNat) ∧
    (dst.turn = .assertRst ∧ dst.status.busy = true ∧
      dst.params.memSize < dst.latch.dst.toNat + outLenOf .pack dst.latch) ∧
    ∀ s ∈ [ok, src, dst], decode s.latch.word = .ok .pack := by decide

theorem witness_ResetDuringAnIllegalWordKeepsMem :
    let s := issued 0 0 0 0 0x00020203 false [] [.assertRst]
    s.turn = .assertRst ∧ s.status.busy = true ∧ decode s.latch.word = .error .unknownOpcode := by decide

theorem witness_HostTurnRunsTheLineAtThePc :
    (host (.mrd 0)).turn = .host ∧ (host (.mrd 0)).prog[(host (.mrd 0)).pc]? = some (.mrd 0) ∧
    (idle [] []).turn = .host ∧ (idle [] []).prog[(idle [] []).pc]? = none ∧
    ∀ (l : Loc) (mask : Word) (target : Nat), HostOp.mrd 0 ≠ .bnz l mask target :=
  ⟨by decide, by decide, by decide, by decide, fun _ _ _ => HostOp.noConfusion⟩

theorem witness_StepRunsTheLatchedCommand :
    ∀ i ∈ [Instr.pack, .nibz, .frame, .pnf],
      State.AtCompletion (running i 0 2048 2048) ∧ decode (running i 0 2048 2048).latch.word = .ok i := by decide

theorem witness_EngineHasNoStepWithoutACommand :
    (idle [] [.engine]).turn = .engine ∧ (idle [] [.engine]).status.busy = false := by decide

/-- OP at 0, 5 and 255, and RSV at 1 and 2^24 - 1 with a legal OP. -/
theorem witness_IllegalWordsAreIssuedAndReported :
    ∀ w ∈ [0x00000000#32, 0x00000005#32, 0x000000FF#32, 0x00000101#32, 0xFFFFFF04#32],
      (w.extractLsb' 8 24 ≠ 0 ∨ (w.extractLsb' 0 8).toNat = 0 ∨ 5 ≤ (w.extractLsb' 0 8).toNat) ∧
      (host (.write .cmd w)).rst = false ∧ (host (.write .cmd w)).status.busy = false ∧
      State.AtCompletion (issued w 0 0 0 0 false [] []) ∧ (issued w 0 0 0 0 false [] []).latch.word = w := by
  intro w hw
  refine ⟨?_, rfl, rfl, ⟨rfl, rfl⟩, word_latchOf _ _⟩
  simp only [List.mem_cons, List.not_mem_nil, or_false] at hw
  rcases hw with rfl | rfl | rfl | rfl | rfl
  · exact .inr (.inl (by decide))
  · exact .inr (.inr (by decide))
  · exact .inr (.inr (by decide))
  · exact .inl (by decide)
  · exact .inl (by decide)

theorem witness_IssueLatchesOperandsAndClearsResults :
    (host (.write .cmd 1)).rst = false ∧ (host (.write .cmd 1)).status.busy = false ∧
    (busy (.write .cmd 1) [.host]).rst = false ∧ (busy (.write .cmd 1) [.host]).status.busy = true := by decide

theorem witness_WrittenRegistersReadBack :
    ∀ r ∈ [Reg.ctrl, .srcAddr, .hdrLen, .cmdId 3],
      (host (.write r 0xFFFFFFFF)).rst = false ∧ (host (.write r 0xFFFFFFFF)).status.busy = false ∧
      r ≠ .cmd ∧ r ≠ .status ∧ r ≠ .outLen ∧ Reg.status ≠ r := by decide

/-- Bytes 0 and 15 stand in the first and the last register, and in no other. -/
theorem witness_HeaderArrayBytesStandLittleEndian :
    (host (.write (.mfrId 0) 5)).rst = false ∧ (host (.write (.mfrId 0) 5)).status.busy = false ∧
    (0 : Fin 16).val / 4 = (0 : Fin 4).val ∧ (15 : Fin 16).val / 4 = (3 : Fin 4).val ∧
    (15 : Fin 16).val / 4 ≠ (0 : Fin 4).val := by decide

theorem witness_StatusWriteIsWriteOneToClear :
    (host (.write .status 0x402)).rst = false ∧ (busy (.write .status 0x402) [.host]).rst = false := by decide

theorem witness_ReservedSpaceReadsZeroAndIgnoresWrites :
    (host (.rwr .w32 0x50 1)).rst = false ∧ (busy (.rwr .w32 0xFC 1) [.host]).rst = false ∧
    (∀ o ∈ [0x50, 0xFC], 0x50 ≤ o ∧ o ≤ 0xFC ∧ o % 4 = 0) ∧
    0xFFFFFFFF#32 &&& 0x00000003#32 = 0x00000003#32 &&& 0x00000003#32 ∧
    0xFFFFFFFF#32 &&& 0x001F1F1F#32 = 0x001F1F1F#32 &&& 0x001F1F1F#32 ∧
    0xFFFFF80C#32 &&& 0x000007F3#32 = 0x00000000#32 &&& 0x000007F3#32 := by decide

theorem witness_BusyDropsGuardedWrites :
    (busy (.write .srcLen 5) [.host]).rst = false ∧ (busy (.write .srcLen 5) [.host]).status.busy = true ∧
    Reg.cmdId 3 ≠ .status ∧ Reg.cmdId 3 ≠ .outLen ∧ (∀ o ∈ [0x50, 0xFC], 0x50 ≤ o ∧ o ≤ 0xFC) ∧
    (∀ a ∈ [0, 8191], a < (busy (.mwr a 5) [.host]).params.memSize) := by decide

/-- Sub-word, misaligned, and one register above 0xFC; the last register of the map is at 0x4C. -/
theorem witness_MalformedRegisterAccessesWriteNothing :
    (host (.rrd .w8 0)).rst = false ∧
    (∀ x ∈ [(Width.w8, 0), (.w16, 0x1C), (.w32, 2), (.w32, 0x100)], ¬(x.1 = .w32 ∧ x.2 % 4 = 0 ∧ x.2 ≤ 0xFC)) ∧
    (0x00 = Reg.offset .ctrl ∧ 0x4C = Reg.offset (.cmdId 3)) := by decide

theorem witness_RegisterReadsHaveNoSideEffect :
    (host (.read .ctrl)).rst = false ∧ (busy (.read .ctrl) [.host]).rst = false := by decide

theorem witness_MemoryPortAccessesOneByteWhileIdle :
    ∀ a ∈ [0, 8191], (host (.mwr a 5)).rst = false ∧ (host (.mwr a 5)).status.busy = false ∧
      a < (host (.mwr a 5)).params.memSize := by decide

theorem witness_MemoryPortOutOfRangeAndBusyAccesses :
    ((host (.mwr 8192 5)).rst = false ∧ (host (.mwr 8192 5)).status.busy = false ∧
      (host (.mwr 8192 5)).params.memSize ≤ 8192) ∧
    ∀ a ∈ [0, 8191], (busy (.mwr a 5) [.host]).rst = false ∧ (busy (.mwr a 5) [.host]).status.busy = true ∧
      a < (busy (.mwr a 5) [.host]).params.memSize := by decide

theorem witness_MemoryReadsTheLastWriteInCanonicalForm :
    let m : Memory := [(0, 5), (8191, 1)]
    m.wf ∧ (0 : Nat) ≠ 8191 ∧ ∀ a, m.read a = m.read a :=
  ⟨by decide, by decide, fun _ => rfl⟩

/-- The range conditions of a command with `n` output bytes, from the states given for each. -/
abbrev RangeWitness (n : Nat) (src dst lap ok : State) : Prop :=
  src.params.memSize < src.latch.src.toNat + src.latch.len.toNat ∧
  (dst.latch.src.toNat + dst.latch.len.toNat ≤ dst.params.memSize ∧ dst.params.memSize < dst.latch.dst.toNat + n) ∧
  (lap.latch.src.toNat + lap.latch.len.toNat ≤ lap.params.memSize ∧
    lap.latch.dst.toNat + n ≤ lap.params.memSize ∧ 0 < lap.latch.len.toNat ∧ 0 < n ∧
    lap.latch.src.toNat < lap.latch.dst.toNat + n ∧
    lap.latch.dst.toNat < lap.latch.src.toNat + lap.latch.len.toNat) ∧
  ok.RangesPass n

/-- V-PACK-5 to V-PACK-12. -/
theorem witness_PackFollowsItsRule :
    ((running .pack 0 0 2048).latch.len.toNat ≠ 2048 ∧ (running .pack 0 2047 2048).latch.len.toNat ≠ 2048 ∧
      (running .pack 0 2049 2048).latch.len.toNat ≠ 2048) ∧
    (∀ src dst, (running .pack src 2048 dst).latch.len.toNat = 2048) ∧
    RangeWitness 1032 (running .pack 6145 2048 0) (running .pack 0 2048 7161) (running .pack 0 2048 2047)
      (running .pack 0 2048 2048) ∧
    (running .pack 0 2048 7160).RangesPass 1032 ∧ (running .pack 1032 2048 0).RangesPass 1032 :=
  ⟨⟨(by decide : (0#32).toNat ≠ 2048), (by decide : (2047#32).toNat ≠ 2048), (by decide : (2049#32).toNat ≠ 2048)⟩,
    fun _ _ => rfl, by decide, by decide, by decide⟩

/-- V-NIBZ-10 to V-NIBZ-17. -/
theorem witness_NibzFollowsItsRule :
    RangeWitness 32 (running .nibz 8177 16 0) (running .nibz 0 16 8161) (running .nibz 0 16 15) (running .nibz 0 16 16) ∧
    (running .nibz 0 16 16).latch.len.toNat * 2 = 32 ∧ (running .nibz 8192 0 8192).RangesPass 0 ∧
    (running .nibz 32 16 0).RangesPass 32 := by
  decide

/-- FRAME with HDR_LEN `h`, STRICT `strict` and the payload of two bytes at 0. -/
def framing (h : Word) (strict : Bool) (payload : List Byte) : State :=
  issued (encode .frame) 0 2 16 h strict payload []

/-- Capacity at 16 and 17; the ranges at n = 11; then the four ends: STRICT with CFGW, with HIB, with neither, and not
STRICT. -/
theorem witness_FrameFollowsItsRule :
    (16 < (issued (encode .frame) 0 0 0 0x00020211 false [] []).latch.mlen.toNat ∧
      (issued (encode .frame) 0 0 0 0x00101010 false [] []).latch.clen.toNat ≤ 16) ∧
    (2 + 3 + 2 + 2 + (framing 0x00020203 false []).latch.len.toNat = 11 ∧
      RangeWitness 11 (running .frame 8191 2 0) (running .frame 0 2 8182) (running .frame 0 2 1)
        (framing 0x00020203 false [])) ∧
    (running .frame 0 2 8181).RangesPass 11 ∧ (framing 0x00020204 true []).RangesPass 12 ∧
    ((framing 0x00020204 true []).latch.strict = true ∧
      ¬((framing 0x00020204 true []).latch.mlen = 3 ∧ (framing 0x00020204 true []).latch.dlen = 2 ∧
        (framing 0x00020204 true []).latch.clen = 2)) ∧
    (let s := framing 0x00020203 true [0x05, 0x80]
     s.latch.strict = true ∧
       ∃ p, 0 < p ∧ p + 1 < 11 ∧
         0x80 ≤ (messageByte s.latch (fun k => s.mem.read (s.latch.src.toNat + k)) s.latch.len.toNat p).toNat) ∧
    (let s := framing 0x00020203 true [0x05, 0x0A]
     (s.latch.strict = true ∧ s.latch.mlen = 3 ∧ s.latch.dlen = 2 ∧ s.latch.clen = 2) ∧
       ¬∃ p, 0 < p ∧ p + 1 < 11 ∧
         0x80 ≤ (messageByte s.latch (fun k => s.mem.read (s.latch.src.toNat + k)) s.latch.len.toNat p).toNat) ∧
    (framing 0x00020204 false [0x05, 0x80]).latch.strict = false := by
  refine ⟨by decide, by decide, by decide, by decide, by decide, ⟨by decide, 9, by decide⟩, ⟨by decide, ?_⟩, by decide⟩
  rintro ⟨p, h0, h, h'⟩
  revert h'
  rw [imp_false, Nat.not_le]
  exact ((by decide : ∀ p < 10, (messageByte (framing 0x00020203 true [0x05, 0x0A]).latch
    (fun k => (framing 0x00020203 true [0x05, 0x0A]).mem.read (0 + k)) 2 p).toNat < 0x80 ∨ p = 0) p
      (by omega)).resolve_right (by omega)

/-- PNF in flight from 0 to 4096, with MFR_ID byte 1 equal to `b`. -/
def fusing (h : Word) (strict : Bool) (b : Byte) : State :=
  { issued (encode .pnf) 0 2048 4096 h strict [] [] with
    latch := { (issued (encode .pnf) 0 2048 4096 h strict [] []).latch with
      mfr := #v[0x00, b, 0x02, 0, 0, 0, 0, 0, 0, 0, 0, 0, 0, 0, 0, 0] } }

/-- Byte `k` of the payload of a PNF in flight. -/
def payloadByte (s : State) (k : Nat) : Byte :=
  let b := s.mem.read (s.latch.src.toNat + packIndex (k / 2))
  if k % 2 = 0 then b &&& 0x0F#8 else b >>> 4

/-- As `witness_FrameFollowsItsRule`, with n = 2073, and V-PNF-7 for the input size. -/
theorem witness_PnfFollowsItsRule :
    (16 < (fusing 0x00020211 false 0x21).latch.mlen.toNat ∧ (fusing 0x00101010 false 0x21).latch.clen.toNat ≤ 16) ∧
    ((running .pnf 0 2047 4096).latch.len.toNat ≠ 2048 ∧ (fusing 0x00020203 true 0x21).latch.len.toNat = 2048) ∧
    2073 = 2066 + (fusing 0x00020203 true 0x21).latch.mlen.toNat + (fusing 0x00020203 true 0x21).latch.dlen.toNat +
      (fusing 0x00020203 true 0x21).latch.clen.toNat ∧
    RangeWitness 2073 (running .pnf 6145 2048 0) (running .pnf 0 2048 6120) (running .pnf 0 2048 2047)
      (fusing 0x00020203 true 0x21) ∧
    ((fusing 0x00020204 true 0x21).latch.strict = true ∧ (fusing 0x00020204 true 0x21).latch.mlen ≠ 3 ∧
      (fusing 0x00020204 true 0x21).RangesPass 2074) ∧
    ((fusing 0x00020203 true 0x80).latch.strict = true ∧
      ∃ p, 0 < p ∧ p + 1 < 2073 ∧
        0x80 ≤ (messageByte (fusing 0x00020203 true 0x80).latch (payloadByte (fusing 0x00020203 true 0x80)) 2064 p).toNat) ∧
    (let s := fusing 0x00020203 true 0x21
     (s.latch.strict = true ∧ s.latch.mlen = 3 ∧ s.latch.dlen = 2 ∧ s.latch.clen = 2) ∧
       ¬∃ p, 0 < p ∧ p + 1 < 2073 ∧ 0x80 ≤ (messageByte s.latch (payloadByte s) 2064 p).toNat) ∧
    (fusing 0x00020203 false 0x80).latch.strict = false := by
  refine ⟨by decide, ⟨(by decide : (2047#32).toNat ≠ 2048), by decide⟩, by decide, by decide, by decide,
    ⟨by decide, 2, by decide⟩, ⟨by decide, ?_⟩, by decide⟩
  rintro ⟨p, h0, h, h'⟩
  revert h'
  rw [imp_false, Nat.not_le]
  by_cases hp : p < 8
  · exact ((by decide : ∀ p < 8, (messageByte (fusing 0x00020203 true 0x21).latch
      (payloadByte (fusing 0x00020203 true 0x21)) 2064 p).toNat < 0x80 ∨ p = 0) p hp).resolve_right (by omega)
  · have e : messageByte (fusing 0x00020203 true 0x21).latch (payloadByte (fusing 0x00020203 true 0x21)) 2064 p =
        payloadByte (fusing 0x00020203 true 0x21) (p - 8) := by
      have h3 : (fusing 0x00020203 true 0x21).latch.mlen.toNat = 3 := by decide
      have h2 : (fusing 0x00020203 true 0x21).latch.dlen.toNat = 2 := by decide
      have h1 : (fusing 0x00020203 true 0x21).latch.clen.toNat = 2 := by decide
      simp only [messageByte, h1, h2, h3]
      rw [if_neg (by omega), if_neg (by omega), if_neg (by omega), if_neg (by omega), if_pos (by omega)]
    have z : ∀ k, payloadByte (fusing 0x00020203 true 0x21) k = 0 := by
      intro k
      simp only [payloadByte, show (fusing 0x00020203 true 0x21).mem = [] from rfl, Memory.read, Memory.unlisted]
      split <;> rfl
    rw [e, z]
    decide

/-- A success and each of two errors. -/
theorem witness_StepExecutesTheLatchAsWritten :
    ∀ s ∈ [running .nibz 0 0 0, running .nibz 0 16 8, running .pack 0 0 0], State.AtCompletion s := by decide

theorem witness_ErrorsArePrecise :
    (busy (.write .srcLen 5) [.host]).status.busy = true ∧
    (∃ t, completeLatched (running .pack 0 0 0) = .next t ∧ t.status.err ≠ .ok) ∧
    ∃ t, completeLatched (framing 0x00020204 true []) = .next t ∧ t.status.err ≠ .ok ∧ t.status.cfgw = true :=
  ⟨by decide, ⟨_, completeLatched_eq _, by decide⟩, ⟨_, completeLatched_eq _, by decide, by decide⟩⟩

/-- Each command succeeds on one state and fails on another. -/
theorem witness_CommandsChangeOnlyOutputAndStatus :
    (∀ i s, ∃ t, exec i s = .next t) ∧
    (∀ s ∈ [running .pack 0 2048 2048, running .nibz 0 16 16, running .frame 0 2 16, running .pnf 0 2048 2048],
      (latchedResult s).code = .ok) ∧
    ∀ s ∈ [running .pack 0 2047 2048, running .nibz 0 16 8, running .frame 0 2 1, running .pnf 0 2048 2047],
      (latchedResult s).code ≠ .ok :=
  ⟨fun i s => ⟨_, exec_eq i s⟩, by decide, by decide⟩

theorem witness_PackHasItsIndexForm :
    ramp.length = 2048 ∧ (7 < 8 ∧ 127 < 128) ∧ 1031 < 1032 := by simp [ramp]

theorem witness_NibblizeIsReversible :
    (0x05 : Byte) ∈ nibblize [0xA5] ∧ ([0xA5] : List Byte)[0]? = some 0xA5 ∧
    (nibblize [0xA5])[2 * 0]? = some 0x05 ∧ (nibblize [0xA5])[2 * 0 + 1]? = some 0x0A ∧
    nibblize [0xA5] = nibblize [0xA5] ∧
    ([0x05, 0x0A] : List Byte).length % 2 = 0 ∧ ∀ x ∈ ([0x05, 0x0A] : List Byte), x.toNat < 0x10 := by decide

theorem witness_MessagesHaveTheFramedShape :
    ∀ b ∈ ([0x00, 0x21, 0x02] ++ [0x00, 0x03] ++ [0x01, 0x00] ++ [0x05, 0x7F] : List Byte), b.toNat < 0x80 := by decide

theorem witness_InterruptFollowsDoneAndEnable :
    State.AtCompletion (running .pack 0 0 0) ∧ State.AtReset (idle [] [.assertRst]) ∧
    State.AtReset (inReset [.deassertRst]) ∧
    ((host (.write .ctrl 0)).rst = false ∧ (host (.write .ctrl 0)).status.busy = false) ∧
    (busy (.write .ctrl 0) [.host]).status.busy = true ∧ Reg.ctrl ≠ .status := by decide

/-- The state after one host step that set VIOL, with the program going on to `op`. -/
def violated (op : HostOp) (turns : List Turn) : State :=
  { busy op turns with status := { (busy op turns).status with viol := true } }

theorem witness_ViolIsStickyAndSetOnlyByDroppedWrites :
    ((busy (.write .srcLen 5) [.host]).rst = false ∧ (busy (.write .srcLen 5) [.host]).status.busy = true ∧
      Reg.guarded .srcLen = true ∧ 8191 < (busy (.mwr 8191 5) [.host]).params.memSize) ∧
    ((violated (.write .status 0x400) [.host]).status.viol = true ∧
      (after (violated (.write .status 0x400) [.host])).status.viol = false ∧
      (after (violated (.read .ctrl) [.assertRst])).status.viol = false) ∧
    (busy (.write .srcLen 5) [.host]).status.viol = false ∧
      (after (busy (.write .srcLen 5) [.host])).status.viol = true ∧
      (after (busy (.mwr 8191 5) [.host])).status.viol = true :=
  ⟨by decide, ⟨by decide, by decide, rfl⟩, by decide, by decide, by decide⟩

/-- A completed command, then `op`. -/
def done (op : HostOp) : State := { after (running .nibz 0 0 0) with prog := [op], sched := [.host] }

theorem witness_ResultsStayUntilTheNextIssueOrReset :
    (∀ s : State, ∃ t, step s = .next t) ∧
    (¬State.AtReset (done (.mwr 0 5)) ∧ ¬State.AtCompletion (done (.mwr 0 5)) ∧
      ∀ w : Word, ¬((done (.mwr 0 5)).AtHostOp (.write .cmd w) ∧ (done (.mwr 0 5)).status.busy = false ∧
        (done (.mwr 0 5)).rst = false)) ∧
    ((done (.mwr 0 5)).status.done = true ∧ (after (done (.mwr 0 5))).status.done = true) ∧
    (after (done (.write .cmd 1))).status.done = false ∧ (after (done (.write .status 2))).status.done = false := by
  refine ⟨step_next, ⟨by decide, by decide, ?_⟩, by decide, by decide, by decide⟩
  rintro w ⟨⟨-, h⟩, -⟩
  exact absurd (Option.some.inj h) HostOp.noConfusion

/-- A completion and an `MWR` each change a byte. -/
theorem witness_OnlyCompletionsResetsAndMemoryWritesChangeMem :
    (∀ s : State, ∃ t, step s = .next t) ∧
    (after (host (.mwr 8191 5))).mem.read 8191 ≠ (host (.mwr 8191 5)).mem.read 8191 ∧
    (after (running .frame 0 0 8)).mem.read 8 ≠ (running .frame 0 0 8).mem.read 8 :=
  ⟨step_next, by decide, by decide⟩

theorem witness_HostAccessesCannotChangeTheCommandInFlight :
    (busy (.write .srcLen 5) [.host]).status.busy = true := by decide

theorem witness_CompletionMayFollowTheIssueAtOnce :
    ∀ i ∈ [Instr.pack, .nibz, .frame, .pnf],
      (idle [.write .cmd (encode i)] [.host, .engine]).sched = .host :: .engine :: [] ∧
      (idle [.write .cmd (encode i)] [.host, .engine]).prog[(0 : Nat)]? = some (.write .cmd (encode i)) ∧
      (idle [.write .cmd (encode i)] [.host, .engine]).rst = false ∧
      (idle [.write .cmd (encode i)] [.host, .engine]).status.busy = false := by decide

theorem witness_StatusReadsReportTheCommandInFlight :
    (busy (.read .status) [.host]).rst = false ∧ (busy (.read .status) [.host]).status.busy = true ∧
    (host (.read .status)).rst = false ∧ (host (.read .status)).status.busy = false := by decide

/-- The value read is BUSY = 1 with the mask of WAIT, and with a mask that misses it. -/
theorem witness_HostBranchTestsTheValueRead :
    lastRead ((busy (.read .status) []).hostOp (.read .status)).reads (.reg 0x04) = some 1 ∧
    1#32 &&& 1#32 ≠ 0 ∧ 1#32 &&& 2#32 = 0 := by decide

theorem witness_PowerUpMeetsTheInvariant :
    let p := { Config.Params.reference with memSize := 2 ^ 31 }
    let m : Memory := [(0, 5), (8191, 1)]
    p.wf = true ∧ m.wf ∧ ∀ c ∈ m, c.1 < p.memSize := by decide

theorem witness_EveryStepKeepsTheInvariant :
    State.reset.Inv ∧ ∃ t, step State.reset = .next t :=
  ⟨⟨by decide, by decide, by decide, by decide, by decide, by decide, by decide, by decide, by decide,
      fun h => absurd h (by decide)⟩,
    step_next _⟩

theorem witness_IssuedCommandsCompleteAsIssued :
    let s := busy (.write .srcLen 5) [.host, .host, .deassertRst, .host]
    s.status.busy = true ∧ Turn.assertRst ∉ s.sched ∧ s.rst = false := by decide

/-- The addresses of programs P2 and P3: A = 0, B = 0x800, C = 0xC08, D = 0x1418. -/
theorem witness_PnfEqualsPackThenNibzThenFrame :
    ∃ s s₁ s₂ s₃ t : State,
      s.runCommand .pack 0 2048 0x800 = .next s₁ ∧ s₁.status.err = .ok ∧
      s₁.runCommand .nibz 0x800 1032 0xC08 = .next s₂ ∧ s₂.status.err = .ok ∧
      s₂.runCommand .frame 0xC08 2064 0x1418 = .next s₃ ∧ s₃.status.err = .ok ∧
      s.runCommand .pnf 0 2048 0x1418 = .next t ∧ t.status.err = .ok :=
  ⟨idle [] [], _, _, _, _, rfl, by decide, rfl, by decide, rfl, by decide, rfl, by decide⟩

/-- Some state's reset during a command changes the byte at 2048: the free value differs from 0 or from 1. -/
theorem witness_reset_changes_a_byte :
    ∃ (s t : State) (a : Nat), step s = .next t ∧ s.turn = .assertRst ∧ t.mem.read a ≠ s.mem.read a := by
  have key (s : State) (ht : s.turn = .assertRst) (hb : s.status.busy = true) (hl : s.popTurn.abandonedLen = 1032)
      (hd : s.latch.dst.toNat = 2048) (h0 : s.draws = 0) (hne : Config.freeByte 0 ≠ s.mem.read 2048) :
      ∃ (s t : State) (a : Nat), step s = .next t ∧ s.turn = .assertRst ∧ t.mem.read a ≠ s.mem.read a := by
    refine ⟨s, s.popTurn.assertRst, 2048, by rw [step, ht], ht, ?_⟩
    rw [read_assertRst, hl]
    simpa [hb, hd, h0] using hne
  by_cases h : Config.freeByte 0 = 0
  · refine key { busy (.read .ctrl) [.assertRst] with mem := [(2048, 1)] } (by decide) (by decide) (by decide) (by decide)
      (by decide) ?_
    rw [h]
    decide
  · exact key (busy (.read .ctrl) [.assertRst]) (by decide) (by decide) (by decide) (by decide) (by decide) h

/-- Each clause's condition at its boundary; `witness_reset_changes_a_byte` meets the premises of the reset clause. -/
theorem witness_FreeValuesAreTakenOnce :
    ((inReset [.host]).rst = true ∧ ¬(Width.w32 = .w32 ∧ 0x100 % 4 = 0 ∧ 0x100 ≤ 0xFC) ∧
      (host (.read (.cmdId 3))).rst = false ∧ (Width.w32 = .w32 ∧ 0xFC % 4 = 0 ∧ 0xFC ≤ 0xFC)) ∧
    ((host (.mrd 8192)).params.memSize ≤ 8192 ∧ (busy (.mrd 0) [.host]).status.busy = true ∧
      ¬(host (.mrd 8191)).params.memSize ≤ 8191) ∧
    ((busy (.mwr 8192 5) [.host]).rst = false ∧ (busy (.mwr 8192 5) [.host]).status.busy = true ∧
      (busy (.mwr 8192 5) [.host]).params.memSize ≤ 8192 ∧ ¬(busy (.mwr 8191 5) [.host]).params.memSize ≤ 8191) ∧
    (lastRead (host (.read .ctrl)).reads (.reg 0x04) = none ∧
      lastRead ((host (.read .status)).hostOp (.read .status)).reads (.reg 0x04) ≠ none) ∧
    ((busy (.read .ctrl) [.assertRst]).turn = .assertRst ∧ (busy (.read .ctrl) [.engine]).turn = .engine ∧
      (inReset [.deassertRst]).turn = .deassertRst ∧ ∀ s : State, ∃ t, step s = .next t) :=
  ⟨by decide, by decide, by decide, by decide, by decide, by decide, by decide, step_next⟩

end Sys2Proof.Tests
end

section
/-! PROOF. The invariant of every step (O44, O45): what each group of the state's fields must meet when it changes, then the
completion step, the host's effects and the reset, each from these. -/

namespace Sys2Proof.Machine

/-! ### Changes that keep the invariant -/

/-- The reset table speaks of the block alone, not of MEM, the host or the model's own fields. -/
theorem State.AtResetValues.withMemHost {s : State} (h : s.AtResetValues) (m : Memory) (pc : Nat)
    (reads : List (Loc × Word)) (sched : List Turn) (draws : Nat) :
    { s with mem := m, pc := pc, reads := reads, sched := sched, draws := draws }.AtResetValues :=
  ⟨h.ctrl, h.status, h.srcAddr, h.srcLen, h.dstAddr, h.outLen, h.hdrLen, h.mfrId, h.devId, h.cmdId, h.irq⟩

/-- MEM may become any canonical memory below MEM_SIZE, and the host's and the model's own fields are free. -/
theorem State.Inv.withMemHost {s : State} (h : s.Inv) {m : Memory} (hm : m.wf) (hr : ∀ c ∈ m, c.1 < s.params.memSize)
    (pc : Nat) (reads : List (Loc × Word)) (sched : List Turn) (draws : Nat) :
    { s with mem := m, pc := pc, reads := reads, sched := sched, draws := draws }.Inv where
  params := h.params
  memCanonical := hm
  memInRange := hr
  outLenBound := h.outLenBound
  errorNoOutput := h.errorNoOutput
  warningsOnlyOnMessages := h.warningsOnlyOnMessages
  configurationErrorHasCause := h.configurationErrorHasCause
  busyCleared := h.busyCleared
  latchMirrors := h.latchMirrors
  resetHeld hrst := (h.resetHeld hrst).withMemHost m pc reads sched draws

/-- The host's and the model's own fields are free. -/
theorem State.Inv.withHost {s : State} (h : s.Inv) (pc : Nat) (reads : List (Loc × Word)) (sched : List Turn)
    (draws : Nat) : { s with pc := pc, reads := reads, sched := sched, draws := draws }.Inv :=
  h.withMemHost h.memCanonical h.memInRange pc reads sched draws

/-- Outside reset and with BUSY = 0 the operand registers are free (R38). -/
theorem State.Inv.withOperands {s : State} (h : s.Inv) (hrst : s.rst = false) (hidle : s.status.busy = false) (ctrl : Ctrl)
    (src len dst : Word) (hdr : HdrLen) (mfr dev cmd : Header) :
    { s with ctrl := ctrl, srcAddr := src, srcLen := len, dstAddr := dst, hdrLen := hdr, mfrId := mfr, devId := dev,
             cmdId := cmd }.Inv where
  params := h.params
  memCanonical := h.memCanonical
  memInRange := h.memInRange
  outLenBound := h.outLenBound
  errorNoOutput := h.errorNoOutput
  warningsOnlyOnMessages := h.warningsOnlyOnMessages
  configurationErrorHasCause := h.configurationErrorHasCause
  busyCleared := h.busyCleared
  latchMirrors hbusy := by simp [hidle] at hbusy
  resetHeld hr := by simp [hrst] at hr

/-- Outside reset VIOL is free and DONE may be cleared (R26, R39). -/
theorem State.Inv.withDoneViol {s : State} (h : s.Inv) (hrst : s.rst = false) {done viol : Bool}
    (hdone : done = true → s.status.done = true) :
    { s with status := { s.status with done := done, viol := viol } }.Inv where
  params := h.params
  memCanonical := h.memCanonical
  memInRange := h.memInRange
  outLenBound := h.outLenBound
  errorNoOutput := h.errorNoOutput
  warningsOnlyOnMessages := h.warningsOnlyOnMessages
  configurationErrorHasCause := h.configurationErrorHasCause
  busyCleared hbusy := by
    obtain ⟨hd, hrest⟩ := h.busyCleared hbusy
    exact ⟨Bool.eq_false_iff.2 fun hdn => by simp [hdone hdn] at hd, hrest⟩
  latchMirrors := h.latchMirrors
  resetHeld hr := by simp [hrst] at hr

/-- Outside reset a command may complete with any results that agree with each other (R87, R190). -/
theorem State.Inv.withResults {s : State} (h : s.Inv) (hrst : s.rst = false) {n : Word} {code : ErrCode} {cfgw hib : Bool}
    (hn : n.toNat ≤ s.params.memSize) (herr : code ≠ .ok → n = 0)
    (hwarn : (cfgw || hib) = true → code = .ok ∨ code = .configurationError)
    (hcause : code = .configurationError → (cfgw || hib) = true) :
    { s with outLen := n, status := s.status.completed code cfgw hib }.Inv where
  params := h.params
  memCanonical := h.memCanonical
  memInRange := h.memInRange
  outLenBound := hn
  errorNoOutput := herr
  warningsOnlyOnMessages := hwarn
  configurationErrorHasCause := hcause
  busyCleared hbusy := by simp at hbusy
  latchMirrors hbusy := by simp at hbusy
  resetHeld hr := by simp [hrst] at hr

/-- The issue of a command outside reset (R85). -/
theorem State.Inv.issue {s : State} (h : s.Inv) (hrst : s.rst = false) (w : Word) : (s.issue w).Inv where
  params := h.params
  memCanonical := h.memCanonical
  memInRange := h.memInRange
  outLenBound := Nat.zero_le _
  errorNoOutput _ := rfl
  warningsOnlyOnMessages hwarn := by simp at hwarn
  configurationErrorHasCause hcfg := by simp at hcfg
  busyCleared _ := ⟨rfl, rfl, rfl, rfl, rfl⟩
  latchMirrors _ := by
    rw [State.issue_latch, word_latchOf]
    rfl
  resetHeld hr := by simp [hrst] at hr

/-! ### Reset -/

theorem toList_of_two (v : Vector Byte 2) : v.toList = [v[0], v[1]] := by
  refine List.ext_getElem (by simp) fun i hi _ => ?_
  rw [Vector.length_toList] at hi
  interval_cases i <;> rfl

theorem toList_of_three (v : Vector Byte 3) : v.toList = [v[0], v[1], v[2]] := by
  refine List.ext_getElem (by simp) fun i hi _ => ?_
  rw [Vector.length_toList] at hi
  interval_cases i <;> rfl

/-- Writing every register's reset value gives the reset table (R41, R210), RST asserted or not. -/
theorem atResetValues_resetRegs (s : State) (b : Bool) : { s.resetRegs with rst := b }.AtResetValues where
  ctrl := (by decide : Ctrl.reset.word = 0)
  status := (by decide : Status.reset.word = 0)
  srcAddr := rfl
  srcLen := rfl
  dstAddr := rfl
  outLen := rfl
  hdrLen := (by decide : HdrLen.reset.word = 0x00020203)
  mfrId := by
    rw [toList_of_three]
    rfl
  devId := by
    rw [toList_of_two]
    rfl
  cmdId := by
    rw [toList_of_two]
    rfl
  irq := rfl

/-- Every register at its reset value meets the invariant when the parameters and MEM do, RST asserted or not. -/
theorem inv_resetRegs {s : State} (hp : s.params.wf = true) (hm : s.mem.wf) (hr : ∀ c ∈ s.mem, c.1 < s.params.memSize)
    (b : Bool) : { s.resetRegs with rst := b }.Inv where
  params := hp
  memCanonical := hm
  memInRange := hr
  outLenBound := Nat.zero_le _
  errorNoOutput _ := rfl
  warningsOnlyOnMessages _ := .inl rfl
  configurationErrorHasCause hcfg := by cases hcfg
  busyCleared hbusy := by cases hbusy
  latchMirrors hbusy := by cases hbusy
  resetHeld _ := atResetValues_resetRegs s b

theorem State.Inv.resetRegs {s : State} (h : s.Inv) (b : Bool) : { s.resetRegs with rst := b }.Inv :=
  inv_resetRegs h.params h.memCanonical h.memInRange b

/-- Abandoning a command fills its output range, which lies in MEM (R211). -/
theorem State.Inv.abandon {s : State} (h : s.Inv) : s.abandon.Inv := by
  refine h.withMemHost (Memory.wf_writeSeq h.memCanonical _ _) ?_ s.pc s.reads s.sched _
  rcases abandonedLen_inRange s with h0 | hin
  · simpa [h0, Memory.writeSeq] using h.memInRange
  · exact Memory.inRange_writeSeq h.memInRange (by simpa using hin)

theorem State.Inv.assertRst {s : State} (h : s.Inv) : s.assertRst.Inv := by
  unfold State.assertRst
  split
  · exact h.abandon.resetRegs true
  · exact h.resetRegs true

theorem State.Inv.deassertRst {s : State} (h : s.Inv) : s.deassertRst.Inv := by
  unfold State.deassertRst
  split
  · exact h.resetRegs false
  · exact h

/-! ### Completion -/

/-- BUSY is bit 0 of STATUS (R25). -/
theorem Status.getLsbD_word_zero (t : Status) : t.word.getLsbD 0 = t.busy := by
  simp only [Status.word, BitVec.getLsbD_append]
  simp

/-- No command is in flight during reset (R210): STATUS reads 0 then. -/
theorem State.Inv.rst_of_busy {s : State} (h : s.Inv) (hbusy : s.status.busy = true) : s.rst = false := by
  refine Bool.eq_false_iff.2 fun hrst => ?_
  have hbit := s.status.getLsbD_word_zero
  simp [(h.resetHeld hrst).status, hbusy] at hbit

/-- The completion step keeps the invariant, whichever of the three shapes the result has. -/
theorem State.Inv.complete {s : State} (h : s.Inv) (hbusy : s.status.busy = true) {r : Result} (hr : r.Shape s) :
    (s.complete r).Inv := by
  have hrst := h.rst_of_busy hbusy
  cases hr with
  | @success n out cfgw hib hlen hdst =>
    have hn : (BitVec.ofNat 32 n).toNat ≤ s.params.memSize := by
      rw [BitVec.toNat_ofNat]
      exact (Nat.mod_le _ _).trans (by omega)
    have hmem : { s with mem := s.mem.writeSeq s.latch.dst.toNat out }.Inv :=
      h.withMemHost (Memory.wf_writeSeq h.memCanonical _ _) (Memory.inRange_writeSeq h.memInRange (by omega))
        s.pc s.reads s.sched s.draws
    rw [complete_ok rfl]
    exact hmem.withResults hrst hn (by simp) (by simp) (by simp)
  | configuration cause =>
    rw [complete_error (by simp)]
    exact h.withResults hrst (Nat.zero_le _) (fun _ => rfl) (fun _ => .inr rfl) (fun _ => cause)
  | @early code hok hcfg =>
    rw [complete_error hok]
    exact h.withResults hrst (Nat.zero_le _) (fun _ => rfl) (by simp [Result.error]) fun e => absurd e hcfg

/-! ### The host's step -/

/-- A write of STATUS outside reset (R26). -/
theorem State.Inv.clear {s : State} (h : s.Inv) (hrst : s.rst = false) (w : Word) :
    { s with status := s.status.writeOneToClear w }.Inv :=
  h.withDoneViol hrst fun hd => (Bool.and_eq_true_iff.1 hd).1

/-- A register write that is stored, outside reset and with BUSY = 0. -/
theorem State.Inv.storeReg {s : State} (h : s.Inv) (hrst : s.rst = false) (hidle : s.status.busy = false) (r : Reg)
    (w : Word) : (s.storeReg w r).Inv := by
  have hop := h.withOperands hrst hidle
  cases r with
  | status => exact h.clear hrst w
  | cmd => exact h.issue hrst w
  | outLen => exact h
  | ctrl | srcAddr | srcLen | dstAddr | hdrLen | mfrId | devId | cmdId => apply hop

/-- A host access keeps the invariant, by the rule that governs it. -/
theorem State.Inv.hostEffect {s t : State} (h : s.Inv) (he : HostEffect s t) : t.Inv := by
  cases he with
  | none => exact h
  | read | drawWord | drawByte | drawn => apply h.withHost
  | store hrst hidle r w => exact h.storeReg hrst hidle r w
  | clear hrst _ w => exact h.clear hrst w
  | violate hrst _ => exact h.withDoneViol hrst id
  | maybeViolate hrst _ => exact (h.withDoneViol (viol := s.maybeViolate.status.viol) hrst id).withHost s.pc s.reads s.sched _
  | mem _ _ a ha v =>
    refine h.withMemHost (Memory.wf_write h.memCanonical a v) (fun c hc => ?_) s.pc s.reads s.sched s.draws
    rcases Memory.mem_write hc with hca | hc
    · rwa [hca]
    · exact h.memInRange c hc

theorem State.Inv.hostStep {s : State} (h : s.Inv) : s.hostStep.Inv := by
  obtain ⟨t, pc, he, heq⟩ := hostStep_eq s
  rw [heq]
  exact (h.hostEffect he).withHost pc t.reads t.sched t.draws

/-! ### The step -/

/-- Every turn keeps the invariant, the engine's by the shape of every command's result. -/
theorem State.Inv.step {s t : State} (h : s.Inv) (hst : step s = .next t) : t.Inv := by
  have hpop : s.popTurn.Inv := h.withHost s.pc s.reads s.sched.tail s.draws
  rcases step_cases s with ⟨-, hs⟩ | ⟨-, -, hs⟩ | ⟨-, hbusy, hs⟩ | ⟨-, hs⟩ | ⟨-, hs⟩ <;>
    obtain rfl := Host.Outcome.next.inj (hs.symm.trans hst)
  · exact hpop.hostStep
  · exact hpop
  · exact hpop.complete hbusy (shape_latchedResult s.popTurn)
  · exact hpop.assertRst
  · exact hpop.deassertRst

/-! ### The obligations -/

/-- Settles O45, by whose turn the step is. -/
theorem everyStepKeepsTheInvariant : Obligations.EveryStepKeepsTheInvariant :=
  fun _ _ h hst => h.step hst

/-- Power-up is a state whose registers all hold their reset value. -/
theorem inv_powerUp {p : Config.Params} {m : Memory} (hp : p.wf = true) (hm : m.wf) (hr : ∀ c ∈ m, c.1 < p.memSize) :
    (State.powerUp p m).Inv :=
  inv_resetRegs (s := State.powerUp p m) hp hm hr false

/-- Settles O44: `State.reset` is the power-up with the reference parameters and nothing listed. -/
theorem powerUpMeetsTheInvariant : Obligations.PowerUpMeetsTheInvariant :=
  ⟨fun _ _ => inv_powerUp, inv_powerUp (by decide) (by decide) (by simp)⟩

end Sys2Proof.Machine
end

section
/-! PROOF. The register port (O14, O15, O16, O17, O18, O19, O21): the bits of the register words, the bytes of a header array, and what a
write of each register stores. -/

namespace Sys2Proof.Machine

/-! ### The bits of the register words -/

/-- The bits of CTRL (R24). -/
theorem Ctrl.getLsbD_word (c : Ctrl) (k : Nat) :
    c.word.getLsbD k = if k = 0 then c.ie else if k = 1 then c.strict else false := by
  by_cases hk : k < 32
  · simp only [Ctrl.word, BitVec.getLsbD_append, BitVec.getLsbD_ofBool]
    interval_cases k <;> simp
  · rw [BitVec.getLsbD_of_ge _ _ (by omega)]
    iterate 2 rw [if_neg (by omega)]

/-- The bits of STATUS (R25). -/
theorem Status.getLsbD_word (t : Status) (k : Nat) :
    t.word.getLsbD k =
      if k = 0 then t.busy else if k = 1 then t.done
      else if 4 ≤ k ∧ k ≤ 7 then t.err.code.getLsbD (k - 4)
      else if k = 8 then t.cfgw else if k = 9 then t.hib else if k = 10 then t.viol else false := by
  by_cases hk : k < 32
  · simp only [Status.word, BitVec.getLsbD_append, BitVec.getLsbD_ofBool]
    interval_cases k <;> simp
  · rw [BitVec.getLsbD_of_ge _ _ (by omega)]
    iterate 6 rw [if_neg (by omega)]

/-- The bits of HDR_LEN (R32). -/
theorem HdrLen.getLsbD_word (h : HdrLen) (k : Nat) :
    h.word.getLsbD k =
      if k ≤ 4 then h.mfrLen.getLsbD k
      else if 8 ≤ k ∧ k ≤ 12 then h.devLen.getLsbD (k - 8)
      else if 16 ≤ k ∧ k ≤ 20 then h.cmdLen.getLsbD (k - 16) else false := by
  by_cases hk : k < 32
  · simp only [HdrLen.word, BitVec.getLsbD_append]
    interval_cases k <;> simp
  · rw [BitVec.getLsbD_of_ge _ _ (by omega)]
    iterate 3 rw [if_neg (by omega)]

/-- Settles O14, from the bits of each register word. -/
theorem registerBitsAreTheFieldsOfTheTables : Obligations.RegisterBitsAreTheFieldsOfTheTables :=
  ⟨by decide, fun s k => ⟨s.ctrl.getLsbD_word k, s.status.getLsbD_word k, s.hdrLen.getLsbD_word k⟩⟩

/-! ### The bytes of a header array -/

/-- Byte `r` of a header word (R33). -/
theorem Header.extractLsb'_readWord (v : Header) (j : Fin 4) {r : Nat} (hr : r < 4) :
    (Header.readWord v j).extractLsb' (8 * r) 8 = v[4 * j.val + r] := by
  apply BitVec.eq_of_getLsbD_eq
  intro k hk
  simp only [Header.readWord, BitVec.getLsbD_extractLsb', BitVec.getLsbD_append]
  interval_cases r <;> interval_cases k <;> simp

/-- What a write of a header word leaves in each byte (R33). -/
theorem Header.getElem_writeWord (v : Header) (j : Fin 4) (w : Word) {i : Nat} (hi : i < 16) :
    (Header.writeWord v j w)[i] = if i / 4 = j.val then w.extractLsb' (8 * (i % 4)) 8 else v[i] := by
  simp only [Header.writeWord, Vector.getElem_set]
  by_cases hij : i / 4 = j.val
  · obtain h | h | h | h : i % 4 = 0 ∨ i % 4 = 1 ∨ i % 4 = 2 ∨ i % 4 = 3 := by omega
    all_goals
      have hie : i = 4 * j.val + i % 4 := by omega
      rw [h] at hie
      subst hie
      simp [hij, h]
  · rw [if_neg hij]
    iterate 4 rw [if_neg (by omega)]

/-! ### Writes of named registers -/

/-- A write that is stored changes no byte of MEM. -/
@[simp] theorem State.storeReg_mem (s : State) (w : Word) (r : Reg) : (s.storeReg w r).mem = s.mem := by
  cases r <;> rfl

/-- STATUS after a write that is stored: only CMD and STATUS change it. -/
theorem State.storeReg_status {s : State} {r : Reg} (w : Word) (hcmd : r ≠ .cmd) (hstatus : r ≠ .status) :
    (s.storeReg w r).status = s.status := by
  cases r with
  | cmd => exact absurd rfl hcmd
  | status => exact absurd rfl hstatus
  | _ => rfl

/-- The host's pc is no part of a register's value. -/
@[simp] theorem State.readReg_advance (s : State) (r : Reg) : s.advance.readReg r = s.readReg r := rfl

/-- A stored write changes the value of no other register, unless it issues. -/
theorem State.readReg_storeReg_of_ne (s : State) (w : Word) {r r' : Reg} (hcmd : r ≠ .cmd) (hne : r' ≠ r) :
    (s.storeReg w r).readReg r' = s.readReg r' := by
  cases r with
  | cmd => exact absurd rfl hcmd
  | mfrId j =>
    cases r' with
    | mfrId k => exact readWord_writeWord_of_ne _ (fun e => hne (congrArg _ e)) w
    | _ => rfl
  | devId j =>
    cases r' with
    | devId k => exact readWord_writeWord_of_ne _ (fun e => hne (congrArg _ e)) w
    | _ => rfl
  | cmdId j =>
    cases r' with
    | cmdId k => exact readWord_writeWord_of_ne _ (fun e => hne (congrArg _ e)) w
    | _ => rfl
  | _ => cases r' <;> simp_all [State.storeReg, State.readReg]

/-- `RWR <reg>, w` outside reset with BUSY = 0 stores the register. -/
theorem hostOp_write_idle {s : State} (hr : s.rst = false) (hb : s.status.busy = false) (r : Reg) (w : Word) :
    s.hostOp (.write r w) = (s.storeReg w r).advance := by
  rw [hostOp_write hr, writeReg_idle hb]

/-- `RWR <reg>, w` of a guarded register outside reset with BUSY = 1 sets VIOL and no more (R39). -/
theorem hostOp_write_dropped {s : State} (hr : s.rst = false) (hb : s.status.busy = true) {r : Reg}
    (hg : r.guarded = true) (w : Word) : s.hostOp (.write r w) = s.violate.advance := by
  rw [hostOp_write hr, writeReg_busy hb, if_pos hg]

/-- `RWR <reg>, w` of a register that no write is dropped for: the register is stored, whatever BUSY is (R39). -/
theorem hostOp_write_unguarded {s : State} (hr : s.rst = false) {r : Reg} (hg : r.guarded = false) (w : Word) :
    s.hostOp (.write r w) = (s.storeReg w r).advance := by
  rw [hostOp_write hr, State.writeReg, hg, Bool.and_false, if_neg (by decide)]

/-- All registers but STATUS and OUT_LEN are guarded (R39). -/
theorem Reg.guarded_eq_true {r : Reg} (hstatus : r ≠ .status) (hout : r ≠ .outLen) : r.guarded = true := by
  cases r with
  | status => exact absurd rfl hstatus
  | outLen => exact absurd rfl hout
  | _ => rfl

/-- Settles O15: a stored register reads back, and the other ones keep their values. -/
theorem writtenRegistersReadBack : Obligations.WrittenRegistersReadBack := by
  refine ⟨by decide, fun s r w hr hb hcmd hstatus hout => ?_⟩
  rw [hostOp_write_idle hr hb]
  refine ⟨?_, fun r' hne => s.readReg_storeReg_of_ne w hcmd hne, s.storeReg_mem w r, s.storeReg_status w hcmd hstatus⟩
  cases r with
  | ctrl => exact Ctrl.word_ofWord w
  | hdrLen => exact HdrLen.word_ofWord w
  | mfrId j => exact readWord_writeWord s.mfrId j w
  | devId j => exact readWord_writeWord s.devId j w
  | cmdId j => exact readWord_writeWord s.cmdId j w
  | srcAddr | srcLen | dstAddr => rfl
  | cmd => exact absurd rfl hcmd
  | status => exact absurd rfl hstatus
  | outLen => exact absurd rfl hout

/-- Settles O16: the three arrays are read and written by the same two functions. -/
theorem headerArrayBytesStandLittleEndian : Obligations.HeaderArrayBytesStandLittleEndian := by
  intro s j w i hr hb
  have hread (v : Header) (hij : i.val / 4 = j.val) :
      (Header.readWord v j).extractLsb' (8 * (i.val % 4)) 8 = v[i.val] := by
    rw [Header.extractLsb'_readWord v j (by omega)]
    congr 1
    omega
  simp only [hostOp_write_idle hr hb]
  exact ⟨fun hij => ⟨hread s.mfrId hij, hread s.devId hij, hread s.cmdId hij⟩,
    Header.getElem_writeWord s.mfrId j w i.isLt, Header.getElem_writeWord s.devId j w i.isLt,
    Header.getElem_writeWord s.cmdId j w i.isLt⟩

/-! ### Reserved space -/

/-- A write at a reserved offset has no effect (R34). -/
theorem hostOp_rwr_reserved (s : State) (wd : Width) {o : Nat} (ho : 0x50 ≤ o) (w : Word) :
    s.hostOp (.rwr wd o w) = s.advance := by
  simp [State.hostOp, State.portWrite, State.writeOffset, ofOffset_reserved ho]

/-- A well-formed read at a reserved offset returns 0 (R34). -/
theorem hostOp_rrd_reserved {s : State} (hr : s.rst = false) {o : Nat} (ho : 0x50 ≤ o)
    (hwf : accessWellFormed .w32 o = true) : s.hostOp (.rrd .w32 o) = (s.logRead (.reg o) 0).advance := by
  simp [State.hostOp, State.portRead, hr, hwf, State.readOffset, ofOffset_reserved ho]

/-- CTRL takes only its defined bits (R24). -/
theorem Ctrl.ofWord_mask (w : Word) : Ctrl.ofWord (w &&& 0x00000003) = Ctrl.ofWord w := by
  simp [Ctrl.ofWord]

/-- HDR_LEN takes only its defined bits (R32). -/
theorem HdrLen.ofWord_mask (w : Word) : HdrLen.ofWord (w &&& 0x001F1F1F) = HdrLen.ofWord w := by
  have hones : BitVec.extractLsb' 0 5 (0x001F1F1F : Word) = BitVec.allOnes 5 ∧
      BitVec.extractLsb' 8 5 (0x001F1F1F : Word) = BitVec.allOnes 5 ∧
      BitVec.extractLsb' 16 5 (0x001F1F1F : Word) = BitVec.allOnes 5 := by decide
  obtain ⟨h0, h8, h16⟩ := hones
  simp only [HdrLen.ofWord, BitVec.extractLsb'_and, h0, h8, h16, BitVec.and_allOnes]

/-- STATUS takes only its defined bits (R25, R26). -/
theorem Status.writeOneToClear_mask (t : Status) (w : Word) :
    t.writeOneToClear (w &&& 0x000007F3) = t.writeOneToClear w := by
  simp [Status.writeOneToClear]

/-- The reserved bits of a word read 0 when every bit of the mask does. -/
theorem and_eq_zero_of_bits {w mask : Word} (h : ∀ k < 32, mask.getLsbD k = true → w.getLsbD k = false) :
    w &&& mask = 0 := by
  apply BitVec.eq_of_getLsbD_eq
  intro k hk
  rw [BitVec.getLsbD_and]
  cases hm : mask.getLsbD k
  · simp
  · simp [h k hk hm]

/-- Two words that a register does not tell apart have the same effect, stored or dropped. -/
theorem hostOp_write_congr {s : State} (hr : s.rst = false) {r : Reg} {w w' : Word}
    (h : s.storeReg w r = s.storeReg w' r) : s.hostOp (.write r w) = s.hostOp (.write r w') := by
  rw [hostOp_write hr, hostOp_write hr, State.writeReg, State.writeReg, h]

/-- Settles O18: no register stands at a reserved offset, and a register's fields are those of the masked word. -/
theorem reservedSpaceReadsZeroAndIgnoresWrites : Obligations.ReservedSpaceReadsZeroAndIgnoresWrites := by
  refine ⟨fun s o w hr hlo hhi hal => ⟨hostOp_rwr_reserved s .w32 hlo w, ?_⟩,
    fun s w hr => hostOp_write_unguarded hr rfl w, fun s => ⟨?_, ?_, ?_⟩, fun s w w' hr => ⟨?_, ?_, ?_⟩⟩
  · exact hostOp_rrd_reserved hr hlo (by simp [accessWellFormed, hal, hhi])
  · refine and_eq_zero_of_bits fun k hk => ?_
    rw [State.readReg, Ctrl.getLsbD_word]
    interval_cases k <;> simp
  · refine and_eq_zero_of_bits fun k hk => ?_
    rw [State.readReg, Status.getLsbD_word]
    interval_cases k <;> simp
  · refine and_eq_zero_of_bits fun k hk => ?_
    rw [State.readReg, HdrLen.getLsbD_word]
    interval_cases k <;> simp
  · intro h
    refine hostOp_write_congr hr ?_
    rw [State.storeReg, State.storeReg, ← Ctrl.ofWord_mask w, h, Ctrl.ofWord_mask]
  · intro h
    refine hostOp_write_congr hr ?_
    rw [State.storeReg, State.storeReg, ← HdrLen.ofWord_mask w, h, HdrLen.ofWord_mask]
  · intro h
    refine hostOp_write_congr hr ?_
    rw [State.storeReg, State.storeReg, ← Status.writeOneToClear_mask _ w, h, Status.writeOneToClear_mask]

/-! ### STATUS writes, dropped writes and reads -/

/-- Settles O17: STATUS is not guarded, and what is stored is write-one-to-clear. -/
theorem statusWriteIsWriteOneToClear : Obligations.StatusWriteIsWriteOneToClear := by
  intro s w hr
  rw [hostOp_write_unguarded hr rfl, State.storeReg, writeOneToClear_eq]
  rfl

/-- `MWR` below MEM_SIZE while BUSY = 1 is dropped and sets VIOL (R71). -/
theorem hostOp_mwr_dropped {s : State} (hr : s.rst = false) (hb : s.status.busy = true) {a : Nat}
    (ha : a < s.params.memSize) (v : Byte) : s.hostOp (.mwr a v) = s.violate.advance := by
  simp [State.hostOp, State.memWrite, hr, hb, ha]

/-- Settles O19, by the register written. -/
theorem busyDropsGuardedWrites : Obligations.BusyDropsGuardedWrites := fun s w hr hb =>
  ⟨fun _ hstatus hout => hostOp_write_dropped hr hb (Reg.guarded_eq_true hstatus hout) w,
    statusWriteIsWriteOneToClear s w hr,
    hostOp_write_unguarded hr rfl w,
    fun _ ho _ => hostOp_rwr_reserved s .w32 ho w,
    fun _ v ha => hostOp_mwr_dropped hr hb ha v⟩

/-- Settles O21: a read of a named register only logs its value. -/
theorem registerReadsHaveNoSideEffect : Obligations.RegisterReadsHaveNoSideEffect :=
  fun _ r hr => ⟨hostOp_read hr r, rfl, rfl, rfl, rfl, rfl⟩

end Sys2Proof.Machine
end

section
/-! PROOF. What each turn of the machine does, and what the host's accesses leave of the results and of IRQ (O1, O5, O6, O8,
O36, O38). -/

namespace Sys2Proof.Machine

/-! ### Turns -/

theorem step_host {s : State} (h : s.turn = .host) : step s = .next s.popTurn.hostStep := by
  rw [step, h]

/-- The engine's turn with a command in flight is its completion step (R40, R87). -/
theorem step_completion {s : State} (h : s.AtCompletion) : step s = completeLatched s.popTurn := by
  rw [step, h.1]
  exact if_pos h.2

/-- The step at a line of the host program is that line (R21). -/
theorem step_hostOp {s : State} {op : HostOp} (h : s.AtHostOp op) : step s = .next (s.popTurn.hostOp op) := by
  rw [step_host h.1, State.hostStep, State.popTurn_prog, State.popTurn_pc, h.2]

/-- After the last line the host's turn passes (log 3). -/
theorem step_host_end {s : State} (h : s.turn = .host) (hend : s.prog[s.pc]? = none) : step s = .next s.popTurn := by
  rw [step_host h, State.hostStep, State.popTurn_prog, State.popTurn_pc, hend]

/-- A step that changes RST, or asserts it again, gives every register its reset value (R41, R210). -/
theorem step_atReset {s : State} (h : s.AtReset) : ∃ t, step s = .next t ∧ t.AtResetValues := by
  rcases h with ht | ⟨ht, hrst⟩
  · exact ⟨s.popTurn.assertRst, by rw [step, ht], atResetValues_resetRegs _ true⟩
  · refine ⟨s.popTurn.deassertRst, by rw [step, ht], ?_⟩
    rw [State.deassertRst, State.popTurn_rst, if_pos hrst]
    exact atResetValues_resetRegs _ false

/-- A step that is no completion and no reset performs a line of the host program or only takes its turn. -/
theorem step_of_not_completion_not_reset {s t : State} (hst : step s = .next t) (hreset : ¬s.AtReset)
    (hcompl : ¬s.AtCompletion) : t = s.popTurn ∨ ∃ op, s.AtHostOp op ∧ t = s.popTurn.hostOp op := by
  rcases step_cases s with ⟨ht, -⟩ | ⟨-, -, hs⟩ | ⟨ht, hb, -⟩ | ⟨ht, -⟩ | ⟨ht, hs⟩
  · cases hop : s.prog[s.pc]? with
    | none => exact .inl (Host.Outcome.next.inj (hst.symm.trans (step_host_end ht hop)))
    | some op => exact .inr ⟨op, ⟨ht, hop⟩, Host.Outcome.next.inj (hst.symm.trans (step_hostOp ⟨ht, hop⟩))⟩
  · exact .inl (Host.Outcome.next.inj (hst.symm.trans hs))
  · exact absurd ⟨ht, hb⟩ hcompl
  · exact absurd (.inl ht) hreset
  · have hrst : ¬s.rst = true := fun hr => hreset (.inr ⟨ht, hr⟩)
    rw [State.deassertRst, State.popTurn_rst, if_neg hrst] at hs
    exact .inl (Host.Outcome.next.inj (hst.symm.trans hs))

/-- No effect of a host access moves the pc; the access itself then advances it. -/
theorem HostEffect.pc_eq {s t : State} (h : HostEffect s t) : t.pc = s.pc := by
  cases h with
  | store _ _ r _ => cases r <;> rfl
  | _ => rfl

/-- Every line but a branch goes on to the next one (R21). -/
theorem hostOp_pc {s : State} {op : HostOp} (h : ∀ l mask target, op ≠ .bnz l mask target) :
    (s.hostOp op).pc = s.pc + 1 := by
  cases op with
  | rwr wd o w => exact congrArg (· + 1) (hostEffect_portWrite s wd o w).pc_eq
  | rrd wd o => exact congrArg (· + 1) (hostEffect_portRead s wd o).pc_eq
  | mwr a v => exact congrArg (· + 1) (hostEffect_memWrite s a v).pc_eq
  | mrd a => exact congrArg (· + 1) (hostEffect_memRead s a).pc_eq
  | bnz l mask target => exact absurd rfl (h l mask target)

/-- Settles O1: power-up is a state whose registers were just reset. -/
theorem powerUpHoldsTheResetTable : Obligations.PowerUpHoldsTheResetTable :=
  fun p m => ⟨atResetValues_resetRegs (State.powerUp p m) false, rfl, rfl, rfl, rfl⟩

/-- Settles O5, by whether a line stands at the pc. -/
theorem hostTurnRunsTheLineAtThePc : Obligations.HostTurnRunsTheLineAtThePc :=
  fun _ ht => ⟨fun _ hop => step_hostOp ⟨ht, hop⟩, step_host_end ht, fun _ => hostOp_pc⟩

/-- Settles O6: the completion step of a legal word is `exec` of its instruction. -/
theorem stepRunsTheLatchedCommand : Obligations.StepRunsTheLatchedCommand := by
  refine ⟨fun s i h hdec => ?_, fun s w => ⟨word_latchOf s w, rfl⟩⟩
  rw [step_completion h, completeLatched, State.popTurn_latch, hdec]

/-- Settles O8: the engine's turn is its completion step only with BUSY = 1. -/
theorem engineHasNoStepWithoutACommand : Obligations.EngineHasNoStepWithoutACommand := by
  intro s ht hb
  rw [step, ht]
  exact if_neg (by simp [hb])

/-! ### Accesses that write no register -/

/-- `t` differs from `s` at most in MEM, VIOL and the fields of the host and of the model. -/
def State.KeepsRegisters (s t : State) : Prop :=
  t = { s with
    mem := t.mem, status := { s.status with viol := t.status.viol }, pc := t.pc, reads := t.reads, draws := t.draws }

theorem State.KeepsRegisters.done {s t : State} (h : s.KeepsRegisters t) : t.status.done = s.status.done :=
  congrArg (·.status.done) h

theorem State.KeepsRegisters.irq {s t : State} (h : s.KeepsRegisters t) : t.irq = s.irq :=
  congrArg (·.irq) h

theorem keepsRegisters_rrd (s : State) (wd : Width) (o : Nat) : s.KeepsRegisters (s.hostOp (.rrd wd o)) := by
  change s.KeepsRegisters (s.portRead wd o).advance
  unfold State.portRead
  split_ifs <;> rfl

theorem keepsRegisters_mwr (s : State) (a : Nat) (v : Byte) : s.KeepsRegisters (s.hostOp (.mwr a v)) := by
  change s.KeepsRegisters (s.memWrite a v).advance
  unfold State.memWrite
  split_ifs <;> rfl

theorem keepsRegisters_mrd (s : State) (a : Nat) : s.KeepsRegisters (s.hostOp (.mrd a)) := by
  change s.KeepsRegisters (s.memRead a).advance
  unfold State.memRead
  split_ifs <;> rfl

theorem keepsRegisters_bnz (s : State) (l : Loc) (mask : Word) (target : Nat) :
    s.KeepsRegisters (s.hostOp (.bnz l mask target)) := by
  change s.KeepsRegisters (s.branch l mask target)
  unfold State.branch State.branchOn
  split <;> split_ifs <;> rfl

/-! ### The interrupt line -/

/-- A completion sets DONE, so IRQ is then IE (R36, R87). -/
theorem irq_complete (s : State) (r : Result) :
    (s.complete r).status.done = true ∧ (s.complete r).irq = s.ctrl.ie := by
  have hdone : (s.complete r).status.done = true := by rw [complete_status, Status.completed_done]
  refine ⟨hdone, ?_⟩
  rw [State.irq, hdone, Bool.true_and, complete_frame]

/-- Settles O36, by what sets DONE and what clears it. -/
theorem interruptFollowsDoneAndEnable : Obligations.InterruptFollowsDoneAndEnable := by
  refine ⟨fun _ => rfl, fun s h => ?_, fun s h => ?_, fun s w hr => ⟨?_, ?_, ?_, ?_, ?_⟩⟩
  · exact ⟨_, (step_completion h).trans (completeLatched_eq _), irq_complete s.popTurn _⟩
  · obtain ⟨t, hst, ht⟩ := step_atReset h
    exact ⟨t, hst, ht.irq⟩
  · rw [hostOp_write_unguarded hr rfl]
    exact Bool.and_right_comm _ _ _
  · intro hb
    rw [hostOp_write_idle hr hb]
    rfl
  · intro hb
    rw [hostOp_write_idle hr hb]
    exact ⟨rfl, rfl⟩
  · intro r hb hstatus
    by_cases hout : r = .outLen
    · rw [hout, hostOp_write_unguarded hr rfl]
      rfl
    · rw [hostOp_write_dropped hr hb (Reg.guarded_eq_true hstatus hout)]
      rfl
  · intro a v
    exact (keepsRegisters_mwr s a v).irq

/-! ### When the results change -/

/-- The results of the last command: BUSY, ERR, CFGW, HIB and OUT_LEN are the same in both states. -/
abbrev State.SameResults (s t : State) : Prop :=
  t.status.busy = s.status.busy ∧ t.status.err = s.status.err ∧ t.status.cfgw = s.status.cfgw ∧
    t.status.hib = s.status.hib ∧ t.outLen = s.outLen

theorem State.KeepsRegisters.sameResults {s t : State} (h : s.KeepsRegisters t) : s.SameResults t :=
  ⟨congrArg (·.status.busy) h, congrArg (·.status.err) h, congrArg (·.status.cfgw) h, congrArg (·.status.hib) h,
    congrArg (·.outLen) h⟩

/-- A register-port write reaches a named register outside reset or has no effect (R34, R63, R210). -/
theorem portWrite_cases (s : State) (wd : Width) (o : Nat) (w : Word) :
    s.portWrite wd o w = s ∨
      ∃ r, HostOp.rwr wd o w = .write r w ∧ s.rst = false ∧ s.portWrite wd o w = s.writeReg r w := by
  unfold State.portWrite
  split
  · exact .inl rfl
  · rename_i hrst
    split
    · rename_i hwf
      unfold State.writeOffset
      split
      · rename_i r hreg
        simp only [accessWellFormed, Bool.and_eq_true, beq_iff_eq] at hwf
        exact .inr ⟨r, by rw [HostOp.write, ← offset_of_ofOffset hreg, hwf.1.1], by simpa using hrst, rfl⟩
      · exact .inl rfl
    · exact .inl rfl

/-- A line of the host program writes a named register, or is an access that keeps the registers. -/
theorem hostOp_cases (s : State) (op : HostOp) :
    (∃ r w, op = .write r w ∧ s.rst = false ∧ s.hostOp op = (s.writeReg r w).advance) ∨
      s.KeepsRegisters (s.hostOp op) := by
  cases op with
  | rwr wd o w =>
    rcases portWrite_cases s wd o w with h | ⟨r, hop, hrst, h⟩
    · rw [State.hostOp, h]
      exact .inr rfl
    · exact .inl ⟨r, w, hop, hrst, congrArg State.advance h⟩
  | rrd wd o => exact .inr (keepsRegisters_rrd s wd o)
  | mwr a v => exact .inr (keepsRegisters_mwr s a v)
  | mrd a => exact .inr (keepsRegisters_mrd s a)
  | bnz l mask target => exact .inr (keepsRegisters_bnz s l mask target)

/-- A register write keeps the results unless it issues a command (R35, R85). -/
theorem sameResults_writeReg {s : State} {r : Reg} (w : Word) (h : r = .cmd → s.status.busy = true) :
    s.SameResults (s.writeReg r w) := by
  cases hb : s.status.busy with
  | true =>
    rw [writeReg_busy hb]
    cases r <;> exact ⟨rfl, rfl, rfl, rfl, rfl⟩
  | false =>
    rw [writeReg_idle hb]
    cases r with
    | cmd => simp [hb] at h
    | _ => exact ⟨rfl, rfl, rfl, rfl, rfl⟩

/-- DONE after a register write: it is kept, or cleared by an issue or by write-one-to-clear (R26, R85). -/
theorem done_writeReg (s : State) (r : Reg) (w : Word) :
    (s.writeReg r w).status.done = s.status.done ∨
      ((s.writeReg r w).status.done = false ∧ (r = .cmd ∨ (r = .status ∧ w.getLsbD 1 = true))) := by
  unfold State.writeReg
  split_ifs
  · exact .inl rfl
  · cases r with
    | cmd => exact .inr ⟨rfl, .inl rfl⟩
    | status =>
      have hdone : (s.storeReg w .status).status.done = (s.status.done && !w.getLsbD 1) := rfl
      rw [hdone]
      cases w.getLsbD 1 <;> simp
    | _ => exact .inl rfl

/-- Settles O38: outside completion and reset only a register write can touch the results or DONE. -/
theorem resultsStayUntilTheNextIssueOrReset : Obligations.ResultsStayUntilTheNextIssueOrReset := by
  intro s t hst hreset hcompl
  rcases step_of_not_completion_not_reset hst hreset hcompl with rfl | ⟨op, hop, rfl⟩
  · exact ⟨fun _ => ⟨rfl, rfl, rfl, rfl, rfl⟩, id, fun hd hd' => absurd hd (by simpa using hd')⟩
  rcases hostOp_cases s.popTurn op with ⟨r, w, rfl, hrst, heq⟩ | hkeep
  · rw [heq]
    refine ⟨fun hno => sameResults_writeReg w fun hcmd => ?_, fun hd => ?_, fun hd hd' => ?_⟩
    · subst hcmd
      by_contra hb
      exact hno w ⟨hop, by simpa using hb, hrst⟩
    · rcases done_writeReg s.popTurn r w with hk | ⟨hc, -⟩
      · exact hk ▸ hd
      · simp [hc] at hd
    · rcases done_writeReg s.popTurn r w with hk | ⟨-, rfl | ⟨rfl, hw⟩⟩
      · exact absurd (hk.symm.trans hd') (by simp [hd])
      · exact .inl ⟨w, hop⟩
      · exact .inr ⟨w, hop, hw⟩
  · have hdone : (s.popTurn.hostOp op).status.done = s.status.done := hkeep.done
    exact ⟨fun _ => hkeep.sameResults, fun hd => hdone ▸ hd, fun hd hd' => absurd hd (by simp [← hdone, hd'])⟩

end Sys2Proof.Machine
end

section
/-! PROOF. The frame of a completed command, and that no host access reaches the one in flight (O31, O40). -/

namespace Sys2Proof.Machine

/-! ### The frame of a command -/

/-- The code of a range error is not OK (R180). -/
theorem Latch.rangeError_ne_ok {L : Latch} {memSize n : Nat} {e : ErrCode} (h : L.rangeError memSize n = some e) :
    e ≠ .ok := by
  rcases Latch.rangeError_code h with rfl | rfl | rfl <;> decide

/-- A framed message that is no error reports its length (R86). -/
theorem framed_n {L : Latch} {n : Nat} {out : List Byte} (h : (framed L n out).code = .ok) : (framed L n out).n = n := by
  unfold framed at h ⊢
  split_ifs at h ⊢
  rfl

/-- A result of one of the three shapes that succeeds has an output of the length it reports. -/
theorem Result.Shape.length_out {s : State} {r : Result} (h : r.Shape s) (hok : r.code = .ok) : r.out.length = r.n := by
  cases h with
  | success hlen _ => exact hlen
  | configuration _ => cases hok
  | early hne _ => exact absurd hok hne

/-- A command that succeeds reports OutLen of the latch as its output length (R86, R87). -/
theorem commandResult_n (i : Instr) (s : State) :
    (commandResult i s).code = .ok → (commandResult i s).n = outLenOf i s.latch := by
  cases i with
  | pack =>
    simp only [commandResult, packResult]
    split
    · exact nofun
    · split
      · exact fun h => absurd h (Latch.rangeError_ne_ok ‹_›)
      · exact fun _ => rfl
  | nibz =>
    simp only [commandResult, nibzResult]
    split
    · exact fun h => absurd h (Latch.rangeError_ne_ok ‹_›)
    · exact fun _ => rfl
  | frame =>
    simp only [commandResult, frameResult]
    split
    · exact nofun
    · split
      · exact fun h => absurd h (Latch.rangeError_ne_ok ‹_›)
      · exact fun h => (framed_n h).trans (by simp only [outLenOf]; omega)
  | pnf =>
    simp only [commandResult, pnfResult]
    split
    · exact nofun
    · split
      · exact nofun
      · split
        · exact fun h => absurd h (Latch.rangeError_ne_ok ‹_›)
        · exact fun h => (framed_n h).trans (by simp only [outLenOf]; omega)

/-- Settles O31: the completion step's frame, with the output's length from the result's shape. -/
theorem commandsChangeOnlyOutputAndStatus : Obligations.CommandsChangeOnlyOutputAndStatus := by
  intro i s t hst
  obtain rfl := Host.Outcome.next.inj ((exec_eq i s).symm.trans hst)
  have hstatus := complete_status s (commandResult i s)
  obtain ⟨hlen, hmem⟩ := complete_output s (commandResult i s)
  refine ⟨complete_frame s _, ?_, ?_, ?_, fun a ha => ?_, fun herr a => ?_, fun hok => ?_⟩
  · rw [hstatus, Status.completed_viol]
  · rw [hstatus, Status.completed_busy]
  · rw [hstatus, Status.completed_done]
  · rw [hmem]
    split
    · rename_i hok
      rw [Memory.read_writeSeq, (shape_commandResult i s).length_out hok, commandResult_n i s hok, if_neg ha]
    · rfl
  · rw [hstatus, Status.completed_err] at herr
    rw [hmem, if_neg herr]
  · rw [hstatus, Status.completed_err] at hok
    rw [hlen, if_pos hok, commandResult_n i s hok]

/-! ### The command in flight -/

@[simp] theorem complete_srcAddr (s : State) (r : Result) : (s.complete r).srcAddr = s.srcAddr := by
  rw [complete_frame]

@[simp] theorem complete_srcLen (s : State) (r : Result) : (s.complete r).srcLen = s.srcLen := by
  rw [complete_frame]

@[simp] theorem complete_dstAddr (s : State) (r : Result) : (s.complete r).dstAddr = s.dstAddr := by
  rw [complete_frame]

/-- Settles O40: what a host access keeps while BUSY = 1 is all that the completion step reads. -/
theorem hostAccessesCannotChangeTheCommandInFlight : Obligations.HostAccessesCannotChangeTheCommandInFlight := by
  intro s op hb
  obtain ⟨t, pc, heffect, heq⟩ := hostOp_eq s op
  obtain ⟨hlatch, hmem, hparams, -, -, -, -, hsrc, hlen, hdst, -⟩ := heffect.busy_frame hb
  have hresult : latchedResult (s.hostOp op) = latchedResult s := by
    rw [heq]
    exact latchedResult_congr hlatch hmem hparams
  obtain ⟨houtLen, houtMem⟩ := complete_output s (latchedResult s)
  obtain ⟨houtLen', houtMem'⟩ := complete_output (s.hostOp op) (latchedResult s)
  refine ⟨_, _, completeLatched_eq s, completeLatched_eq _, ?_⟩
  rw [hresult]
  refine ⟨?_, houtLen'.trans houtLen.symm, ?_, ?_, ?_, ?_, ?_, ?_⟩
  · rw [houtMem, houtMem', heq, hlatch, hmem]
  · rw [complete_status, complete_status, Status.completed_err, Status.completed_err]
  · rw [complete_status, complete_status, Status.completed_cfgw, Status.completed_cfgw]
  · rw [complete_status, complete_status, Status.completed_hib, Status.completed_hib]
  · rw [complete_srcAddr, complete_srcAddr, heq, hsrc]
  · rw [complete_srcLen, complete_srcLen, heq, hlen]
  · rw [complete_dstAddr, complete_dstAddr, heq, hdst]

end Sys2Proof.Machine
end

section
/-! PROOF. MEM and the memory port, malformed accesses, and the free values (O20, O22, O23, O24, O39, O48): what each kind of
access does, which bytes of MEM a turn changes, and which turns draw. -/

namespace Sys2Proof.Machine

/-! ### MEM -/

/-- Writes to different addresses commute (R70). -/
theorem Memory.write_comm {m : Memory} (hm : m.wf) {a b : Nat} (hab : a ≠ b) (v w : Byte) :
    (m.write a v).write b w = (m.write b w).write a v := by
  refine Memory.ext_read (Memory.wf_write (Memory.wf_write hm a v) b w) (Memory.wf_write (Memory.wf_write hm b w) a v)
    fun c => ?_
  simp only [Memory.read_write]
  by_cases hca : c = a
  · rw [if_neg (hca ▸ hab), if_pos hca, if_pos hca]
  · rw [if_neg hca, if_neg hca]

/-- A later write to an address replaces the earlier one (R70). -/
theorem Memory.write_write {m : Memory} (hm : m.wf) (a : Nat) (v w : Byte) :
    (m.write a v).write a w = m.write a w := by
  refine Memory.ext_read (Memory.wf_write (Memory.wf_write hm a v) a w) (Memory.wf_write hm a w) fun c => ?_
  simp only [Memory.read_write]
  by_cases hca : c = a
  · rw [if_pos hca, if_pos hca]
  · rw [if_neg hca, if_neg hca, if_neg hca]

/-- Settles O24: equal contents are equal data, so the two laws of writes follow from what they read. -/
theorem memoryReadsTheLastWriteInCanonicalForm : Obligations.MemoryReadsTheLastWriteInCanonicalForm :=
  ⟨Memory.read_write, fun _ a v hm => Memory.wf_write hm a v, fun _ _ => Memory.ext_read,
    fun _ a _ v w hm hab => ⟨Memory.write_comm hm hab v w, Memory.write_write hm a v w⟩⟩

/-! ### Accesses of the memory port -/

/-- `MWR` below MEM_SIZE with BUSY = 0 writes its byte (R61). -/
theorem hostOp_mwr_idle {s : State} (hr : s.rst = false) (hb : s.status.busy = false) {a : Nat}
    (ha : a < s.params.memSize) (v : Byte) : s.hostOp (.mwr a v) = { s with mem := s.mem.write a v }.advance := by
  simp [State.hostOp, State.memWrite, hr, hb, ha]

/-- `MWR` at or above MEM_SIZE with BUSY = 0 has no effect (R62). -/
theorem hostOp_mwr_above {s : State} (hb : s.status.busy = false) {a : Nat} (ha : s.params.memSize ≤ a) (v : Byte) :
    s.hostOp (.mwr a v) = s.advance := by
  simp [State.hostOp, State.memWrite, hb, Nat.not_lt.2 ha]

/-- `MWR` at or above MEM_SIZE while BUSY = 1 is dropped and leaves VIOL free (R62, R71, log 10). -/
theorem hostOp_mwr_above_busy {s : State} (hr : s.rst = false) (hb : s.status.busy = true) {a : Nat}
    (ha : s.params.memSize ≤ a) (v : Byte) : s.hostOp (.mwr a v) = s.maybeViolate.advance := by
  simp [State.hostOp, State.memWrite, hr, hb, Nat.not_lt.2 ha]

/-- `MWR` while RST is asserted has no effect (R210). -/
theorem hostOp_mwr_inReset {s : State} (hr : s.rst = true) (a : Nat) (v : Byte) : s.hostOp (.mwr a v) = s.advance := by
  simp [State.hostOp, State.memWrite, hr]

/-- `MRD` in reset, while BUSY = 1, or at or above MEM_SIZE returns a free byte (R62, R71, R210). -/
theorem hostOp_mrd_free {s : State} {a : Nat} (h : s.rst = true ∨ s.status.busy = true ∨ s.params.memSize ≤ a) :
    s.hostOp (.mrd a) = (s.drawByte (.mem a)).advance :=
  congrArg State.advance (if_pos (by simpa [or_assoc] using h))

/-- Every other `MRD` returns the byte stored (R61). -/
theorem hostOp_mrd_stored {s : State} {a : Nat} (h : ¬(s.rst = true ∨ s.status.busy = true ∨ s.params.memSize ≤ a)) :
    s.hostOp (.mrd a) = (s.logRead (.mem a) ((s.mem.read a).setWidth 32)).advance :=
  congrArg State.advance (if_neg (by simpa [or_assoc] using h))

/-- Settles O22: the two accesses with BUSY = 0 below MEM_SIZE. -/
theorem memoryPortAccessesOneByteWhileIdle : Obligations.MemoryPortAccessesOneByteWhileIdle := by
  intro s a v hr hb ha
  refine ⟨⟨s.mem.write a v, hostOp_mwr_idle hr hb ha v, fun b => Memory.read_write s.mem a b v⟩, ?_⟩
  exact hostOp_mrd_stored (by simp [hr, hb, ha])

/-- While BUSY = 1 no host access changes MEM (R38, R71). -/
theorem hostOp_mem_of_busy {s : State} (hb : s.status.busy = true) (op : HostOp) : (s.hostOp op).mem = s.mem := by
  obtain ⟨t, pc, heffect, heq⟩ := hostOp_eq s op
  obtain ⟨-, hmem, -⟩ := heffect.busy_frame hb
  rw [heq]
  exact hmem

/-- Settles O23, by BUSY and by whether the address lies in MEM. -/
theorem memoryPortOutOfRangeAndBusyAccesses : Obligations.MemoryPortOutOfRangeAndBusyAccesses := by
  refine fun s a v hr => ⟨fun hb ha => hostOp_mwr_above hb ha v, fun hb => ⟨hostOp_mem_of_busy hb _, ?_, fun ha => ?_⟩,
    fun h => hostOp_mrd_free (.inr h)⟩
  · exact congrArg State.status (keepsRegisters_mwr s a v)
  · rw [hostOp_mwr_dropped hr hb ha]
    rfl

/-! ### Accesses of the register port -/

/-- R63's condition on a register-port access. -/
theorem accessWellFormed_iff {wd : Width} {o : Nat} :
    accessWellFormed wd o = true ↔ wd = .w32 ∧ o % 4 = 0 ∧ o ≤ 0xFC := by
  simp [accessWellFormed, and_assoc]

/-- A malformed `RWR` has no effect (R63). -/
theorem hostOp_rwr_malformed (s : State) {wd : Width} {o : Nat} (h : ¬(wd = .w32 ∧ o % 4 = 0 ∧ o ≤ 0xFC)) (w : Word) :
    s.hostOp (.rwr wd o w) = s.advance := by
  simp [State.hostOp, State.portWrite, mt accessWellFormed_iff.1 h]

/-- `RRD` in reset or malformed returns a free word (R63, R210). -/
theorem hostOp_rrd_free {s : State} {wd : Width} {o : Nat}
    (h : s.rst = true ∨ ¬(wd = .w32 ∧ o % 4 = 0 ∧ o ≤ 0xFC)) :
    s.hostOp (.rrd wd o) = (s.drawWord (.reg o)).advance := by
  rcases h with hr | hwf
  · simp [State.hostOp, State.portRead, hr]
  · simp [State.hostOp, State.portRead, mt accessWellFormed_iff.1 hwf]

/-- Every other `RRD` returns what stands at the offset (R34, R42). -/
theorem hostOp_rrd_stored {s : State} {wd : Width} {o : Nat}
    (h : ¬(s.rst = true ∨ ¬(wd = .w32 ∧ o % 4 = 0 ∧ o ≤ 0xFC))) :
    s.hostOp (.rrd wd o) = (s.logRead (.reg o) (s.readOffset o)).advance := by
  obtain ⟨hr, hwf⟩ := not_or.1 h
  simp [State.hostOp, State.portRead, hr, accessWellFormed_iff.2 (not_not.1 hwf)]

/-- Settles O20: a malformed access, and the access of a named register. -/
theorem malformedRegisterAccessesWriteNothing : Obligations.MalformedRegisterAccessesWriteNothing := by
  refine fun s wd o w hr => ⟨fun h => ⟨hostOp_rwr_malformed s h w, hostOp_rrd_free (.inr h)⟩, ?_⟩
  rintro r rfl rfl
  exact ⟨hostOp_write hr r w, hostOp_read hr r⟩

/-- A stored register write takes no free value. -/
@[simp] theorem State.storeReg_draws (s : State) (w : Word) (r : Reg) : (s.storeReg w r).draws = s.draws := by
  cases r <;> rfl

/-- A register write, stored or dropped, changes no byte of MEM and takes no free value. -/
theorem writeReg_mem_draws (s : State) (r : Reg) (w : Word) :
    (s.writeReg r w).mem = s.mem ∧ (s.writeReg r w).draws = s.draws := by
  unfold State.writeReg
  split
  · exact ⟨rfl, rfl⟩
  · exact ⟨s.storeReg_mem w r, s.storeReg_draws w r⟩

/-- No register-port write changes a byte of MEM or takes a free value. -/
theorem hostOp_rwr_mem_draws (s : State) (wd : Width) (o : Nat) (w : Word) :
    (s.hostOp (.rwr wd o w)).mem = s.mem ∧ (s.hostOp (.rwr wd o w)).draws = s.draws := by
  change (s.portWrite wd o w).mem = s.mem ∧ (s.portWrite wd o w).draws = s.draws
  rcases portWrite_cases s wd o w with h | ⟨r, -, -, h⟩ <;> rw [h]
  · exact ⟨rfl, rfl⟩
  · exact writeReg_mem_draws s r w

/-! ### The host's branch -/

/-- Where a branch goes on its value (R88). -/
theorem branchOn_pc (s : State) (v mask : Word) (target : Nat) :
    (s.branchOn v mask target).pc = if v &&& mask = 0 then s.pc + 1 else target := by
  unfold State.branchOn
  by_cases h : v &&& mask = 0
  · rw [if_neg (not_not.2 h), if_pos h]
    rfl
  · rw [if_pos h, if_neg h]

@[simp] theorem branchOn_mem (s : State) (v mask : Word) (target : Nat) : (s.branchOn v mask target).mem = s.mem := by
  unfold State.branchOn
  split <;> rfl

@[simp] theorem branchOn_draws (s : State) (v mask : Word) (target : Nat) :
    (s.branchOn v mask target).draws = s.draws := by
  unfold State.branchOn
  split <;> rfl

/-- `BNZ` on a location never read tests the free word of the present count (log 15). -/
theorem hostOp_bnz_unread {s : State} {l : Loc} (h : lastRead s.reads l = none) (mask : Word) (target : Nat) :
    s.hostOp (.bnz l mask target) = (s.drawn 1).branchOn (Config.freeWord s.draws) mask target := by
  rw [State.hostOp, State.branch, h]

/-- `BNZ` on a value read tests that value (R88). -/
theorem hostOp_bnz_read {s : State} {l : Loc} {v : Word} (h : lastRead s.reads l = some v) (mask : Word) (target : Nat) :
    s.hostOp (.bnz l mask target) = s.branchOn v mask target := by
  rw [State.hostOp, State.branch, h]

/-! ### Which bytes of MEM a turn changes -/

/-- A host access that is no `MWR` changes no byte of MEM. -/
theorem hostOp_mem {s : State} {op : HostOp} (h : ∀ a v, op ≠ .mwr a v) : (s.hostOp op).mem = s.mem := by
  cases op with
  | rwr wd o w => exact (hostOp_rwr_mem_draws s wd o w).1
  | rrd wd o =>
    by_cases hfree : s.rst = true ∨ ¬(wd = .w32 ∧ o % 4 = 0 ∧ o ≤ 0xFC)
    · rw [hostOp_rrd_free hfree, State.advance_mem, State.drawWord_mem]
    · rw [hostOp_rrd_stored hfree, State.advance_mem, State.logRead_mem]
  | mwr a v => exact absurd rfl (h a v)
  | mrd a =>
    by_cases hfree : s.rst = true ∨ s.status.busy = true ∨ s.params.memSize ≤ a
    · rw [hostOp_mrd_free hfree, State.advance_mem, State.drawByte_mem]
    · rw [hostOp_mrd_stored hfree, State.advance_mem, State.logRead_mem]
  | bnz l mask target =>
    cases hread : lastRead s.reads l with
    | none => rw [hostOp_bnz_unread hread, branchOn_mem, State.drawn_mem]
    | some v => rw [hostOp_bnz_read hread, branchOn_mem]

/-- An access that changes the byte at `a` is an `MWR` to `a`, in MEM, with BUSY = 0 and outside reset (R60, R61). -/
theorem hostOp_changes_mem {s : State} {op : HostOp} {a : Nat} (h : (s.hostOp op).mem.read a ≠ s.mem.read a) :
    s.rst = false ∧ s.status.busy = false ∧ a < s.params.memSize ∧
      ∃ v, op = .mwr a v ∧ (s.hostOp op).mem.read a = v := by
  obtain ⟨b, v, rfl⟩ : ∃ b v, op = .mwr b v := by
    by_contra hno
    push Not at hno
    exact h (by rw [hostOp_mem hno])
  cases hr : s.rst with
  | true => exact absurd (by rw [hostOp_mwr_inReset hr, State.advance_mem]) h
  | false =>
    cases hb : s.status.busy with
    | true => exact absurd (by rw [hostOp_mem_of_busy hb]) h
    | false =>
      rcases Nat.lt_or_ge b s.params.memSize with hlt | hge
      · rw [hostOp_mwr_idle hr hb hlt, State.advance_mem, Memory.read_write] at h
        obtain rfl : a = b := by
          by_contra hne
          exact h (if_neg hne)
        refine ⟨rfl, rfl, hlt, v, rfl, ?_⟩
        rw [hostOp_mwr_idle hr hb hlt, State.advance_mem, Memory.read_write, if_pos rfl]
      · exact absurd (by rw [hostOp_mwr_above hb hge, State.advance_mem]) h

/-- Asserting RST draws one free value for each byte of an abandoned command's output range (R211). -/
theorem assertRst_draws {s : State} (hb : s.status.busy = true) : s.assertRst.draws = s.draws + s.abandonedLen := by
  rw [State.assertRst, if_pos hb]
  rfl

/-- A byte that asserting RST changes is one of a command in flight, and it becomes one of the free values drawn (R211). -/
theorem assertRst_changes_mem {s : State} {a : Nat} (h : s.assertRst.mem.read a ≠ s.mem.read a) :
    s.status.busy = true ∧
      ∃ k, s.draws ≤ k ∧ k < s.assertRst.draws ∧ s.assertRst.mem.read a = Config.freeByte k := by
  rw [read_assertRst] at h
  split at h
  · rename_i hopen
    obtain ⟨hb, hlo, hhi⟩ := hopen
    refine ⟨hb, s.draws + (a - s.latch.dst.toNat), by omega, ?_, ?_⟩
    · rw [assertRst_draws hb]
      omega
    · rw [read_assertRst, if_pos ⟨hb, hlo, hhi⟩]
  · exact absurd rfl h

/-- Deasserting RST changes no byte of MEM and takes no free value (R210, R212). -/
theorem deassertRst_mem_draws (s : State) : s.deassertRst.mem = s.mem ∧ s.deassertRst.draws = s.draws := by
  unfold State.deassertRst
  split <;> exact ⟨rfl, rfl⟩

/-- Settles O39, by whose turn the step is. -/
theorem onlyCompletionsResetsAndMemoryWritesChangeMem : Obligations.OnlyCompletionsResetsAndMemoryWritesChangeMem := by
  intro s t a hst hne
  rcases step_cases s with ⟨ht, -⟩ | ⟨-, -, hs⟩ | ⟨ht, hb, -⟩ | ⟨ht, hs⟩ | ⟨-, hs⟩
  · cases hop : s.prog[s.pc]? with
    | none =>
      obtain rfl := Host.Outcome.next.inj ((step_host_end ht hop).symm.trans hst)
      exact absurd rfl hne
    | some op =>
      obtain rfl := Host.Outcome.next.inj ((step_hostOp ⟨ht, hop⟩).symm.trans hst)
      obtain ⟨hr, hb, ha, v, rfl, hv⟩ := hostOp_changes_mem hne
      exact .inr (.inr ⟨ht, hr, hb, ha, v, rfl, hv⟩)
  · obtain rfl := Host.Outcome.next.inj (hs.symm.trans hst)
    exact absurd rfl hne
  · exact .inl ⟨ht, hb⟩
  · obtain rfl := Host.Outcome.next.inj (hs.symm.trans hst)
    exact .inr (.inl ⟨ht, (assertRst_changes_mem hne).1⟩)
  · obtain rfl := Host.Outcome.next.inj (hs.symm.trans hst)
    exact absurd (by rw [(deassertRst_mem_draws s.popTurn).1, State.popTurn_mem]) hne

/-! ### Which turns draw free values -/

/-- An `MWR` that leaves VIOL determined takes no free value. -/
theorem hostOp_mwr_draws {s : State} {a : Nat} (h : ¬(s.rst = false ∧ s.status.busy = true ∧ s.params.memSize ≤ a))
    (v : Byte) : (s.hostOp (.mwr a v)).draws = s.draws := by
  cases hr : s.rst with
  | true => rw [hostOp_mwr_inReset hr, State.advance_draws]
  | false =>
    rcases Nat.lt_or_ge a s.params.memSize with hlt | hge
    · cases hb : s.status.busy with
      | true => rw [hostOp_mwr_dropped hr hb hlt, State.advance_draws, State.violate_draws]
      | false => rw [hostOp_mwr_idle hr hb hlt, State.advance_draws]
    · have hb : s.status.busy = false := Bool.eq_false_iff.2 fun hb => h ⟨hr, hb, hge⟩
      rw [hostOp_mwr_above hb hge, State.advance_draws]

/-- A completion takes no free value (R87). -/
@[simp] theorem complete_draws (s : State) (r : Result) : (s.complete r).draws = s.draws := by
  rw [complete_frame]

/-- A turn of the engine, or one that deasserts RST, takes no free value. -/
theorem step_draws {s t : State} (hst : step s = .next t) (ht : s.turn = .engine ∨ s.turn = .deassertRst) :
    t.draws = s.draws := by
  rcases step_cases s with ⟨h, -⟩ | ⟨-, -, hs⟩ | ⟨-, -, hs⟩ | ⟨h, -⟩ | ⟨-, hs⟩
  · simp [h] at ht
  · obtain rfl := Host.Outcome.next.inj (hs.symm.trans hst)
    rfl
  · obtain rfl := Host.Outcome.next.inj (hs.symm.trans hst)
    exact complete_draws _ _
  · simp [h] at ht
  · obtain rfl := Host.Outcome.next.inj (hs.symm.trans hst)
    exact (deassertRst_mem_draws s.popTurn).2

/-- Settles O48: each kind of access and of turn by the rule above that says what it draws. -/
theorem freeValuesAreTakenOnce : Obligations.FreeValuesAreTakenOnce := by
  refine ⟨fun s wd o w => (hostOp_rwr_mem_draws s wd o w).2, fun s wd o => ?_, fun s a => ?_, fun s a v => ?_,
    fun s l mask target => ?_, fun s t hst ht a hne => ?_, fun _ _ => step_draws⟩
  · split
    · rw [hostOp_rrd_free ‹_›]
      exact ⟨rfl, rfl⟩
    · rw [hostOp_rrd_stored ‹_›]
      exact ⟨rfl, rfl⟩
  · split
    · rw [hostOp_mrd_free ‹_›]
      exact ⟨rfl, rfl⟩
    · rw [hostOp_mrd_stored ‹_›]
      exact ⟨rfl, rfl⟩
  · split
    · rename_i h
      obtain ⟨hr, hb, ha⟩ := h
      rw [hostOp_mwr_above_busy hr hb ha]
      exact ⟨rfl, rfl⟩
    · exact hostOp_mwr_draws ‹_› v
  · split
    · rw [hostOp_bnz_unread ‹_›]
      exact ⟨branchOn_pc _ _ _ _, branchOn_draws _ _ _ _⟩
    · obtain ⟨v, hv⟩ := Option.ne_none_iff_exists'.1 ‹_›
      rw [hostOp_bnz_read hv, branchOn_draws]
  · obtain rfl : s.popTurn.assertRst = t := Host.Outcome.next.inj (.trans (by rw [step, ht]) hst)
    exact (assertRst_changes_mem hne).2

end Sys2Proof.Machine
end

section
/-! PROOF. The command word from decoder to completion: decoding and encoding agree, illegal words are reported, the step is
`Execute(L)` of the latched word, and what every step keeps (O7, O9, O10, O11, O12, O13, O29, O43). -/

namespace Sys2Proof.Machine

/-! ### The decoder -/

/-- A word is its two fields (R80). -/
theorem eq_of_fields {w w' : Word} (hrsv : rsvField w = rsvField w') (hop : opField w = opField w') : w = w' :=
  BitVec.eq_of_toNat_eq (by rw [toNat_eq_fields w, toNat_eq_fields w', hrsv, hop])

/-- The only word that decodes to an instruction is its own (R84). -/
theorem decode_eq_ok_iff {w : Word} {i : Instr} : decode w = .ok i ↔ w = encode i := by
  refine ⟨fun h => ?_, fun h => h ▸ decode_encode i⟩
  obtain ⟨hrsv, hop⟩ := fields_of_decode h
  obtain ⟨hrsv', hop'⟩ := fields_of_decode (decode_encode i)
  exact eq_of_fields (hrsv.trans hrsv'.symm) (hop.trans hop'.symm)

/-- The legal words are 1 to 4 (R81). -/
theorem exists_eq_encode_iff {w : Word} : (∃ i, w = encode i) ↔ 1 ≤ w.toNat ∧ w.toNat ≤ 4 := by
  constructor
  · rintro ⟨i, rfl⟩
    cases i <;> decide
  · rintro ⟨hlo, hhi⟩
    obtain h | h | h | h : w.toNat = 1 ∨ w.toNat = 2 ∨ w.toNat = 3 ∨ w.toNat = 4 := by omega
    · exact ⟨.pack, BitVec.eq_of_toNat_eq h⟩
    · exact ⟨.nibz, BitVec.eq_of_toNat_eq h⟩
    · exact ⟨.frame, BitVec.eq_of_toNat_eq h⟩
    · exact ⟨.pnf, BitVec.eq_of_toNat_eq h⟩

/-- Settles O11: a word is its fields, and the four words are 1 to 4. -/
theorem decoderReadsExactlyTheFourWords : Obligations.DecoderReadsExactlyTheFourWords :=
  ⟨fun _ _ => decode_eq_ok_iff, fun _ => by simp only [decode_eq_ok_iff, exists_eq_encode_iff],
    fun i => by cases i <;> rfl⟩

/-- Settles O10: each of the four is the word of its instruction. -/
theorem writtenOutCommandWordsDecode : Obligations.WrittenOutCommandWordsDecode :=
  ⟨decode_encode .pack, decode_encode .nibz, decode_encode .frame, decode_encode .pnf⟩

/-! ### The result of the latched word -/

/-- The engine's turn with a command in flight completes it with the result of the latched word (R87). -/
theorem step_complete_latchedResult {s : State} (h : s.AtCompletion) :
    step s = .next (s.popTurn.complete (latchedResult s)) := by
  rw [step_completion h, completeLatched_eq, latchedResult_congr (s := s) (t := s.popTurn) rfl rfl rfl]

/-- A legal word's result is its instruction's. -/
theorem latchedResult_of_decode_ok {s : State} {i : Instr} (h : decode s.latch.word = .ok i) :
    latchedResult s = commandResult i s := by
  rw [latchedResult, h]

/-- An illegal word's result is IllegalCommand (R83). -/
theorem latchedResult_of_decode_error {s : State} {e : DecodeError} (h : decode s.latch.word = .error e) :
    latchedResult s = .error .illegalCommand := by
  rw [latchedResult, h]

/-- OP of a legal word is 1 to 4 (R81). -/
theorem opcode_range (i : Instr) : 1 ≤ (opcode i).toNat ∧ (opcode i).toNat ≤ 4 := by
  cases i <;> decide

/-- A word with RSV ≠ 0 or with an OP outside 1 to 4 is rejected (R83). -/
theorem decode_illegal {w : Word} (h : rsvField w ≠ 0 ∨ (opField w).toNat = 0 ∨ 5 ≤ (opField w).toNat) :
    ∃ e, decode w = .error e := by
  cases hdec : decode w with
  | error e => exact ⟨e, rfl⟩
  | ok i =>
    obtain ⟨hrsv, hop⟩ := fields_of_decode hdec
    have hrange := opcode_range i
    rw [← hop] at hrange
    rcases h with h | h
    · exact absurd hrsv h
    · omega

/-- Settles O12: the decoder rejects the word, so its completion is the error outcome. -/
theorem illegalWordsAreIssuedAndReported : Obligations.IllegalWordsAreIssuedAndReported := by
  intro s w hw
  refine ⟨fun hr hb => hostOp_write_idle hr hb .cmd w, fun h hlatch => ?_⟩
  obtain ⟨e, he⟩ := decode_illegal hw
  rw [step_complete_latchedResult h, latchedResult_of_decode_error (hlatch ▸ he), complete_error (by decide)]
  rfl

/-! ### `Execute(L)` of R86 -/

/-- A latched word with RSV = 0 and an instruction's OP decodes to that instruction (R81). -/
theorem Latch.decode_word_of_fields {L : Latch} {i : Instr} (hrsv : L.rsv = 0) (hop : L.op = opcode i) :
    decode L.word = .ok i := by
  obtain ⟨hrsv', hop'⟩ := fields_of_decode (decode_encode i)
  exact decode_eq_ok_iff.2 (eq_of_fields (by rw [rsvField_word, hrsv, hrsv']) (by rw [opField_word, hop, hop']))

/-- The fields of a latched word that is rejected (R83). -/
theorem Latch.fields_of_decode_error {L : Latch} {e : DecodeError} (h : decode L.word = .error e) :
    L.rsv ≠ 0 ∨ ¬(L.op = 0x01 ∨ L.op = 0x02 ∨ L.op = 0x03 ∨ L.op = 0x04) := by
  by_contra hlegal
  obtain ⟨hrsv, hop⟩ := not_or.1 hlegal
  have hno (i : Instr) : L.op ≠ opcode i := fun hi => by
    simp [Latch.decode_word_of_fields (not_not.1 hrsv) hi] at h
  rcases not_not.1 hop with h1 | h2 | h3 | h4
  · exact hno .pack h1
  · exact hno .nibz h2
  · exact hno .frame h3
  · exact hno .pnf h4

/-- The range checks as R86 writes them are those of `rangeError`, whatever result they guard. -/
theorem rangeChecks_eq (L : Latch) (memSize n : Nat) (r : Result) :
    (if memSize < L.src.toNat + L.len.toNat then ⟨.srcRange, 0, [], false, false⟩
      else if memSize < L.dst.toNat + n then ⟨.dstRange, 0, [], false, false⟩
      else if overlaps L.src.toNat L.len.toNat L.dst.toNat n then ⟨.overlap, 0, [], false, false⟩
      else r) = (L.rangeError memSize n).elim r .error := by
  unfold Latch.rangeError
  split_ifs <;> rfl

/-- The end of a framing command as R86 writes it. -/
theorem framed_message_eq (L : Latch) (n : Nat) (out : List Byte) :
    (if L.strict = true ∧ (cfgW L = true ∨ hiB out = true) then ⟨.configurationError, 0, [], cfgW L, hiB out⟩
      else ⟨.ok, n, out, cfgW L, hiB out⟩) = framed L n out := by
  simp [framed]

/-- Some header length exceeds its array (R182). -/
theorem overCapacity_eq_true {L : Latch} :
    L.overCapacity = true ↔ 16 < L.mlen.toNat ∨ 16 < L.dlen.toNat ∨ 16 < L.clen.toNat := by
  simp [Latch.overCapacity, Config.hdrCap]

/-- `Execute(L)` of PACK (R102). -/
theorem specExecute_pack {s : State} (hrsv : s.latch.rsv = 0) (hop : s.latch.op = 0x01) :
    specExecute s.params.memSize s.mem s.latch = packResult s := by
  have hspec : specExecute s.params.memSize s.mem s.latch =
      if s.latch.len.toNat ≠ 2048 then .error .invalidInputSize
      else (s.latch.rangeError s.params.memSize Config.packLen).elim
        ⟨.ok, Config.packLen, pack s.source, false, false⟩ .error := by
    simp [specExecute, hrsv, hop, specOutLen, specCompute, rangeChecks_eq, Config.packLen, State.source,
      Result.error]
  rw [hspec, packResult]
  cases s.latch.rangeError s.params.memSize Config.packLen <;> rfl

/-- `Execute(L)` of NIBZ (R121). -/
theorem specExecute_nibz {s : State} (hrsv : s.latch.rsv = 0) (hop : s.latch.op = 0x02) :
    specExecute s.params.memSize s.mem s.latch = nibzResult s := by
  have hspec : specExecute s.params.memSize s.mem s.latch =
      (s.latch.rangeError s.params.memSize (2 * s.latch.len.toNat)).elim
        ⟨.ok, 2 * s.latch.len.toNat, nibblize s.source, false, false⟩ .error := by
    simp [specExecute, hrsv, hop, specOutLen, specCompute, rangeChecks_eq, State.source]
  rw [hspec, nibzResult]
  cases s.latch.rangeError s.params.memSize (2 * s.latch.len.toNat) <;> rfl

/-- `Execute(L)` of FRAME (R144). -/
theorem specExecute_frame {s : State} (hrsv : s.latch.rsv = 0) (hop : s.latch.op = 0x03) :
    specExecute s.params.memSize s.mem s.latch = frameResult s := by
  have hn : 1 + s.latch.mlen.toNat + s.latch.dlen.toNat + s.latch.clen.toNat + s.latch.len.toNat + 1 =
      2 + s.latch.headerLen + s.latch.len.toNat := by
    rw [Latch.headerLen]
    omega
  have hspec : specExecute s.params.memSize s.mem s.latch =
      if s.latch.overCapacity then .error .headerCapacity
      else (s.latch.rangeError s.params.memSize (2 + s.latch.headerLen + s.latch.len.toNat)).elim
        (framed s.latch (2 + s.latch.headerLen + s.latch.len.toNat) (s.latch.message s.source)) .error := by
    simp [specExecute, hrsv, hop, specOutLen, specCompute, hn, rangeChecks_eq, framed_message_eq, overCapacity_eq_true,
      Latch.message, Latch.mfrBytes, Latch.devBytes, Latch.cmdBytes, State.source, Result.error]
  rw [hspec, frameResult]
  dsimp only
  cases s.latch.rangeError s.params.memSize (2 + s.latch.headerLen + s.latch.len.toNat) <;> rfl

/-- `Execute(L)` of PNF (R161). -/
theorem specExecute_pnf {s : State} (hrsv : s.latch.rsv = 0) (hop : s.latch.op = 0x04) :
    specExecute s.params.memSize s.mem s.latch = pnfResult s := by
  have hn : 1 + s.latch.mlen.toNat + s.latch.dlen.toNat + s.latch.clen.toNat + 2064 + 1 =
      2 + Config.nibPackLen + s.latch.headerLen := by
    rw [Latch.headerLen, Config.nibPackLen]
    omega
  have hspec : specExecute s.params.memSize s.mem s.latch =
      if s.latch.overCapacity then .error .headerCapacity
      else if s.latch.len.toNat ≠ 2048 then .error .invalidInputSize
      else (s.latch.rangeError s.params.memSize (2 + Config.nibPackLen + s.latch.headerLen)).elim
        (framed s.latch (2 + Config.nibPackLen + s.latch.headerLen) (s.latch.message (nibblize (pack s.source))))
        .error := by
    simp [specExecute, hrsv, hop, specOutLen, specCompute, hn, rangeChecks_eq, framed_message_eq, overCapacity_eq_true,
      Latch.message, Latch.mfrBytes, Latch.devBytes, Latch.cmdBytes, State.source, Result.error]
  rw [hspec, pnfResult]
  dsimp only
  cases s.latch.rangeError s.params.memSize (2 + Config.nibPackLen + s.latch.headerLen) <;> rfl

/-- `Execute(L)` as R86 writes it is the result of the latched word: for a command that of its own rule, and for any other
word IllegalCommand. -/
theorem specExecute_eq_latchedResult (s : State) :
    specExecute s.params.memSize s.mem s.latch = latchedResult s := by
  cases hdec : decode s.latch.word with
  | error e =>
    rw [latchedResult_of_decode_error hdec]
    exact if_pos (Latch.fields_of_decode_error hdec)
  | ok i =>
    obtain ⟨hrsv, hop⟩ := fields_of_decode hdec
    rw [rsvField_word] at hrsv
    rw [opField_word] at hop
    rw [latchedResult_of_decode_ok hdec]
    cases i with
    | pack => exact specExecute_pack hrsv hop
    | nibz => exact specExecute_nibz hrsv hop
    | frame => exact specExecute_frame hrsv hop
    | pnf => exact specExecute_pnf hrsv hop

/-- The length that a result of one of the three shapes reports is that of its output; both are 0 on an error. -/
theorem Result.Shape.length_eq_n {s : State} {r : Result} (h : r.Shape s) : r.out.length = r.n := by
  cases h with
  | success hlen _ => exact hlen
  | configuration _ | early _ _ => rfl

/-- Settles O29: the step completes with the latched word's result, which is `Execute(L)`. -/
theorem stepExecutesTheLatchAsWritten : Obligations.StepExecutesTheLatchAsWritten := by
  rintro s h r rfl
  rw [specExecute_eq_latchedResult]
  refine ⟨(shape_latchedResult s).length_eq_n, ?_⟩
  rw [step_complete_latchedResult h, State.complete]
  split <;> rfl

/-! ### Placing and issuing a word -/

/-- The bits of a 32-bit row are its word. -/
theorem tableWord_toNat (w : Word) : tableWord 32 w.toNat = w := by
  rw [tableWord, Nat.mod_eq_of_lt w.isLt, BitVec.ofNat_toNat, BitVec.setWidth_eq]

/-- A placed word is in flight, and the engine's turn is next (log 1). -/
theorem atCompletion_withFetchWord (s : State) (nbits w : Nat) : (s.withFetchWord nbits w).AtCompletion :=
  ⟨rfl, rfl⟩

/-- Taking the turn that placing a word put first leaves the word issued outside reset. -/
theorem popTurn_withFetchWord (s : State) (nbits w : Nat) :
    (s.withFetchWord nbits w).popTurn = { s.issue (tableWord nbits w) with rst := false } := rfl

/-- Settles O7: the placed word is the latched one, and it decodes to its instruction. -/
theorem placedWordRunsItsInstruction : Obligations.PlacedWordRunsItsInstruction := by
  intro s i
  constructor
  · have hlatch : decode (s.withFetchWord 32 (encode i).toNat).latch.word = .ok i := by
      change decode (s.latchOf (tableWord 32 (encode i).toNat)).word = .ok i
      rw [word_latchOf, tableWord_toNat, decode_encode]
    rw [stepRunsTheLatchedCommand.1 _ i (atCompletion_withFetchWord s _ _) hlatch, popTurn_withFetchWord, tableWord_toNat]
  · rw [decodeTableWord, if_pos (Nat.mod_lt _ (by decide)), tableWord_toNat, decode_encode]
    rfl

/-- Settles O13: CMD is guarded, and a CMD write that is not dropped issues. -/
theorem issueLatchesOperandsAndClearsResults : Obligations.IssueLatchesOperandsAndClearsResults :=
  fun _ w hr => ⟨fun hb => hostOp_write_dropped hr hb rfl w, fun hb => hostOp_write_idle hr hb .cmd w⟩

/-- A branch moves the pc and changes nothing else (R88). -/
theorem branchOn_eq (s : State) (v mask : Word) (target : Nat) :
    s.branchOn v mask target = { s with pc := if v &&& mask = 0 then s.pc + 1 else target } := by
  rw [← branchOn_pc, State.branchOn]
  split <;> rfl

/-- Settles O43: a branch on a location that was read tests the value read. -/
theorem hostBranchTestsTheValueRead : Obligations.HostBranchTestsTheValueRead :=
  fun s _ v mask target h => (hostOp_bnz_read h mask target).trans (branchOn_eq s v mask target)

/-! ### What every step keeps -/

/-- The constant fields and the schedule are the same in both states, and the count of free values has not gone down. -/
abbrev State.KeepsConstants (s t : State) : Prop :=
  t.params = s.params ∧ t.prog = s.prog ∧ t.sched = s.sched ∧ s.draws ≤ t.draws

/-- A host access keeps them, by the rule that governs it. -/
theorem HostEffect.keepsConstants {s t : State} (h : HostEffect s t) : s.KeepsConstants t := by
  cases h with
  | store _ _ r _ => cases r <;> exact ⟨rfl, rfl, rfl, le_rfl⟩
  | none | read | clear | violate | mem => exact ⟨rfl, rfl, rfl, le_rfl⟩
  | drawWord | drawByte | maybeViolate | drawn => exact ⟨rfl, rfl, rfl, Nat.le_succ _⟩

theorem hostStep_keepsConstants (s : State) : s.KeepsConstants s.hostStep := by
  obtain ⟨t, pc, heffect, heq⟩ := hostStep_eq s
  rw [heq]
  exact heffect.keepsConstants

theorem complete_keepsConstants (s : State) (r : Result) : s.KeepsConstants (s.complete r) := by
  rw [complete_frame]
  exact ⟨rfl, rfl, rfl, le_rfl⟩

theorem assertRst_keepsConstants (s : State) : s.KeepsConstants s.assertRst := by
  unfold State.assertRst
  split
  · exact ⟨rfl, rfl, rfl, Nat.le_add_right _ _⟩
  · exact ⟨rfl, rfl, rfl, le_rfl⟩

theorem deassertRst_keepsConstants (s : State) : s.KeepsConstants s.deassertRst := by
  unfold State.deassertRst
  split <;> exact ⟨rfl, rfl, rfl, le_rfl⟩

/-- Settles O9, by whose turn the step is: only taking the turn changes the schedule. -/
theorem stepsNeverStopAndKeepTheParameters : Obligations.StepsNeverStopAndKeepTheParameters := by
  intro s
  rcases step_cases s with ⟨-, hs⟩ | ⟨-, -, hs⟩ | ⟨-, -, hs⟩ | ⟨-, hs⟩ | ⟨-, hs⟩ <;> refine ⟨_, hs, ?_⟩
  · exact hostStep_keepsConstants s.popTurn
  · exact ⟨rfl, rfl, rfl, le_rfl⟩
  · exact complete_keepsConstants s.popTurn _
  · exact assertRst_keepsConstants s.popTurn
  · exact deassertRst_keepsConstants s.popTurn

end Sys2Proof.Machine
end

section
/-! PROOF. PACK (O25, O32): the index form of its output, its result in each case of R102, and what its completion writes. -/

namespace Sys2Proof.Machine

/-! ### The index form of Pack -/

/-- The bytes of cycle `k` before its last are the group's own (R101). -/
theorem packIndex_group (k : Nat) {j : Nat} (hj : j < 128) : packIndex (129 * k + j) = 256 * k + j := by
  have hdiv : (129 * k + j) / 129 = k := by omega
  have hmod : (129 * k + j) % 129 = j := by omega
  rw [packIndex, hdiv, hmod, if_neg (by omega)]

/-- The last byte of cycle `k` is the group's first again (R101). -/
theorem packIndex_closing (k : Nat) : packIndex (129 * k + 128) = 256 * k := by
  have hdiv : (129 * k + 128) / 129 = k := by omega
  have hmod : (129 * k + 128) % 129 = 128 := by omega
  rw [packIndex, hdiv, hmod, if_pos rfl, Nat.add_zero]

/-- Every packed byte comes from inside the wavetable buffer. -/
theorem packIndex_lt {p : Nat} (hp : p < 1032) : packIndex p < 2048 := by
  unfold packIndex
  split <;> omega

/-- Byte `p` of a packed buffer is the source byte that `packIndex` names. -/
theorem getElem?_pack_packIndex {buf : List Byte} (h : buf.length = 2048) {p : Nat} (hp : p < 1032) :
    (pack buf)[p]? = buf[packIndex p]? :=
  getElem?_pack h hp

/-- Settles O32: the index form, read at the group's bytes and at the closing byte of each cycle. -/
theorem packHasItsIndexForm : Obligations.PackHasItsIndexForm := by
  intro buf h
  have hgroup (k j : Nat) (hk : k < 8) (hj : j < 128) : (pack buf)[129 * k + j]? = buf[256 * k + j]? := by
    rw [getElem?_pack_packIndex h (by omega), packIndex_group k hj]
  have hclosing (k : Nat) (hk : k < 8) : (pack buf)[129 * k + 128]? = buf[256 * k]? := by
    rw [getElem?_pack_packIndex h (by omega), packIndex_closing]
  have hfirst (k : Nat) (hk : k < 8) : (pack buf)[129 * k]? = buf[256 * k]? := hgroup k 0 hk (by decide)
  exact ⟨length_pack h, hgroup, fun k hk => ⟨hclosing k hk, (hclosing k hk).trans (hfirst k hk).symm⟩,
    fun _ hp => getElem?_pack_packIndex h hp⟩

/-! ### PACK's result -/

theorem packResult_of_wrong_size {s : State} (h : s.latch.len.toNat ≠ 2048) :
    packResult s = .error .invalidInputSize :=
  if_pos h

theorem packResult_of_rangeError {s : State} {e : ErrCode} (hlen : s.latch.len.toNat = 2048)
    (he : s.latch.rangeError s.params.memSize 1032 = some e) : packResult s = .error e := by
  rw [packResult, Config.wtLen, if_neg (not_not.2 hlen), Config.packLen, he]

theorem packResult_of_rangesPass {s : State} (hlen : s.latch.len.toNat = 2048) (h : s.RangesPass 1032) :
    packResult s = ⟨.ok, 1032, pack s.source, false, false⟩ := by
  rw [packResult, Config.wtLen, if_neg (not_not.2 hlen), Config.packLen, rangeError_of_rangesPass h]

/-- Byte `p` of PACK's output is the byte of MEM that `packIndex` names (R101, R102). -/
theorem getElem?_pack_source {s : State} (hlen : s.latch.len.toNat = 2048) {p : Nat} (hp : p < 1032) :
    (pack s.source)[p]? = some (s.mem.read (s.latch.src.toNat + packIndex p)) := by
  have hidx : packIndex p < s.latch.len.toNat := hlen ▸ packIndex_lt hp
  rw [getElem?_pack_packIndex ((length_source s).trans hlen) hp, getElem?_source, if_pos hidx]

/-! ### PACK's completion -/

/-- Settles O25, by the cases of R102: a wrong size, a range error, and the packed bytes. -/
theorem packFollowsItsRule : Obligations.PackFollowsItsRule := by
  refine ⟨decode_encode .pack, fun s => ⟨fun hsize => ?_, fun hlen => ⟨?_, fun hpass => ?_⟩⟩⟩
  · exact exec_of_error (by decide) (packResult_of_wrong_size hsize)
  · exact rangeErrors_of_result fun _ he => packResult_of_rangeError hlen he
  · exact writes_of_result (packResult_of_rangesPass hlen hpass) (length_pack ((length_source s).trans hlen))
      fun _ hp => getElem?_pack_source hlen hp

end Sys2Proof.Machine
end

section
/-! PROOF. NIBZ (O26, O33): joining nibbles back into bytes inverts Nibblize, NIBZ's result in each case of R121, and what
its completion writes. -/

namespace Sys2Proof.Machine

/-! ### Nibbles of a byte -/

/-- The byte with the given low and high nibble (R122). -/
def joinNibbles (lo hi : Byte) : Byte := (hi <<< 4) ||| lo

/-- A byte is its two nibbles (R122). -/
theorem joinNibbles_split (b : Byte) : joinNibbles (b &&& 0x0F#8) ((b >>> 4) &&& 0x0F#8) = b := by
  revert b
  decide

/-- The low nibble of a joined byte: the mask drops the shifted high nibble. -/
theorem joinNibbles_and_mask {lo : Byte} (hi : Byte) (hlo : lo.toNat < 0x10) : joinNibbles lo hi &&& 0x0F#8 = lo := by
  have hhi : (hi <<< 4) &&& 0x0F#8 = 0#8 := by
    revert hi
    decide
  have hmask : lo &&& 0x0F#8 = lo := by
    revert lo
    decide
  rw [joinNibbles, BitVec.and_or_distrib_right, hhi, hmask, BitVec.zero_or]

/-- The high nibble of a joined byte: the shift drops the low nibble. -/
theorem joinNibbles_shiftRight {lo hi : Byte} (hlo : lo.toNat < 0x10) (hhi : hi.toNat < 0x10) :
    joinNibbles lo hi >>> 4 = hi := by
  have hshift : (hi <<< 4) >>> 4 = hi := by
    revert hi
    decide
  have hdrop : lo >>> 4 = 0#8 := by
    revert lo
    decide
  rw [joinNibbles, BitVec.ushiftRight_or_distrib, hshift, hdrop, BitVec.or_zero]

/-- Joining two nibbles and splitting the byte gives the nibbles back (R122). -/
theorem nibbles_joinNibbles {lo hi : Byte} (hlo : lo.toNat < 0x10) (hhi : hi.toNat < 0x10) :
    nibbles (joinNibbles lo hi) = [lo, hi] := by
  rw [nibbles, joinNibbles_and_mask hi hlo, shiftRight_and_mask, joinNibbles_shiftRight hlo hhi]

/-! ### Nibblize and its inverse -/

theorem nibblize_cons (b : Byte) (S : List Byte) : nibblize (b :: S) = nibbles b ++ nibblize S := List.flatMap_cons

/-- The bytes whose nibbles, low one first, are given; a nibble left over is dropped. -/
def denibblize : List Byte → List Byte
  | lo :: hi :: T => joinNibbles lo hi :: denibblize T
  | _ => []

/-- Every sequence is recovered from its nibbles (R122). -/
theorem denibblize_nibblize (S : List Byte) : denibblize (nibblize S) = S := by
  induction S with
  | nil => rfl
  | cons b S ih =>
    calc denibblize (nibblize (b :: S))
        = joinNibbles (b &&& 0x0F#8) ((b >>> 4) &&& 0x0F#8) :: denibblize (nibblize S) := rfl
      _ = b :: S := by rw [joinNibbles_split, ih]

theorem nibblize_injective : Function.Injective nibblize :=
  Function.LeftInverse.injective denibblize_nibblize

/-- Every sequence of even length of bytes < 0x10 is the nibbles of the bytes it joins to (R122). -/
theorem nibblize_denibblize : (T : List Byte) → T.length % 2 = 0 → (∀ x ∈ T, x.toNat < 0x10) →
    nibblize (denibblize T) = T
  | [], _, _ => rfl
  | [_], heven, _ => by simp at heven
  | lo :: hi :: T, heven, hnib => by
    obtain ⟨hlo, hhi, hrest⟩ : lo.toNat < 0x10 ∧ hi.toNat < 0x10 ∧ ∀ x ∈ T, x.toNat < 0x10 := by
      simpa using hnib
    have heven' : T.length % 2 = 0 := by
      rw [List.length_cons, List.length_cons] at heven
      omega
    have ih := nibblize_denibblize T heven' hrest
    rw [denibblize, nibblize_cons, nibbles_joinNibbles hlo hhi, ih]
    rfl

/-! ### The index form of Nibblize -/

/-- The even output bytes are the low nibbles (R120). -/
theorem getElem?_nibblize_even (S : List Byte) (i : Nat) :
    (nibblize S)[2 * i]? = S[i]?.map fun b : Byte => b &&& 0x0F#8 := by
  have hdiv : 2 * i / 2 = i := by omega
  have hmod : 2 * i % 2 = 0 := by omega
  simp only [getElem?_nibblize, hdiv, hmod, if_true]

/-- The odd output bytes are the high nibbles (R120). -/
theorem getElem?_nibblize_odd (S : List Byte) (i : Nat) :
    (nibblize S)[2 * i + 1]? = S[i]?.map fun b : Byte => (b >>> 4) &&& 0x0F#8 := by
  have hdiv : (2 * i + 1) / 2 = i := by omega
  have hmod : (2 * i + 1) % 2 ≠ 0 := by omega
  simp only [getElem?_nibblize, hdiv, hmod, if_false]

/-- Settles O33: the index form gives the nibbles and recovers each byte, and `denibblize` is the inverse. -/
theorem nibblizeIsReversible : Obligations.NibblizeIsReversible := by
  refine ⟨length_nibblize, fun _ _ => lt_of_mem_nibblize, fun S i b hb => ?_, fun S i lo hi hlo hhi => ?_,
    fun _ _ h => nibblize_injective h, fun T heven hnib => ⟨denibblize T, nibblize_denibblize T heven hnib⟩⟩
  · rw [getElem?_nibblize_even, getElem?_nibblize_odd, hb]
    exact ⟨rfl, rfl⟩
  · rw [getElem?_nibblize_even] at hlo
    rw [getElem?_nibblize_odd] at hhi
    obtain ⟨b, hb, rfl⟩ := Option.map_eq_some_iff.1 hlo
    rw [hb] at hhi
    obtain rfl := Option.some.inj hhi
    exact hb.trans (congrArg some (joinNibbles_split b).symm)

/-! ### NIBZ's result -/

theorem nibzResult_of_rangeError {s : State} {e : ErrCode}
    (he : s.latch.rangeError s.params.memSize (2 * s.latch.len.toNat) = some e) : nibzResult s = .error e := by
  rw [nibzResult, he]

theorem nibzResult_of_rangesPass {s : State} (h : s.RangesPass (2 * s.latch.len.toNat)) :
    nibzResult s = ⟨.ok, 2 * s.latch.len.toNat, nibblize s.source, false, false⟩ := by
  rw [nibzResult, rangeError_of_rangesPass h]

/-- Byte `p` of NIBZ's output is a nibble of the byte of MEM at `p / 2` in its source (R120, R121). -/
theorem getElem?_nibblize_source {s : State} {p : Nat} (hp : p < 2 * s.latch.len.toNat) :
    (nibblize s.source)[p]? = some
      (if p % 2 = 0 then s.mem.read (s.latch.src.toNat + p / 2) &&& 0x0F#8
        else (s.mem.read (s.latch.src.toNat + p / 2) >>> 4) &&& 0x0F#8) := by
  have hidx : p / 2 < s.latch.len.toNat := by omega
  rw [getElem?_nibblize, getElem?_source, if_pos hidx]
  rfl

/-! ### NIBZ's completion -/

/-- Settles O26, by the cases of R121: a range error, and the nibbles of the source bytes. -/
theorem nibzFollowsItsRule : Obligations.NibzFollowsItsRule := by
  refine ⟨decode_encode .nibz, fun s => ⟨?_, fun hpass => ?_⟩⟩
  · exact rangeErrors_of_result fun _ he => nibzResult_of_rangeError he
  · exact writes_of_result (nibzResult_of_rangesPass hpass) (by rw [length_nibblize, length_source])
      fun _ hp => getElem?_nibblize_source hp

end Sys2Proof.Machine
end

section
/-! PROOF. FRAME (O27, O34): the shape of a message and its warnings, the end of a framing command (R187), FRAME's result in
each case of R144, and what its completion writes. -/

namespace Sys2Proof.Machine

/-! ### The shape of a message -/

/-- BuildMessage as R140 writes it. -/
theorem buildMessage_eq (m d c p : List Byte) : buildMessage m d c p = [0xF0] ++ m ++ d ++ c ++ p ++ [0xF7] := by
  simp [buildMessage, Config.sox, Config.eox]

/-- HIB is 0 exactly when every byte between the first and the last is < 0x80 (R143). -/
theorem hiB_eq_false {out : List Byte} :
    hiB out = false ↔
      ∀ (i : Nat) (b : Byte), 1 ≤ i → i < out.length - 1 → out[i]? = some b → b.toNat < 0x80 := by
  have hbyte : ∀ p < out.length, out[p]? = some (out.getD p 0) := fun p hp => by
    rw [List.getD_eq_getElem _ _ hp, List.getElem?_eq_getElem hp]
  rw [← Bool.not_eq_true, hiB_eq_true rfl hbyte]
  constructor
  · intro hnone i b h1 hi hb
    have hget : out.getD i 0 = b := Option.some.inj ((hbyte i (by omega)).symm.trans hb)
    exact Nat.lt_of_not_le fun hge => hnone ⟨i, h1, by omega, hget ▸ hge⟩
  · rintro hall ⟨p, h0, hp, hge⟩
    exact absurd (hall p _ h0 (by omega) (hbyte p (by omega))) (Nat.not_lt.2 hge)

/-- Settles O34: the shape is the concatenation's, and HIB reads the interior, which is the header groups and the payload. -/
theorem messagesHaveTheFramedShape : Obligations.MessagesHaveTheFramedShape := by
  intro m d c p
  refine ⟨buildMessage_eq m d c p, ?_, rfl, ?_, hiB_eq_false, fun hlow => ?_⟩
  · rw [length_buildMessage]
    omega
  · rw [← List.getLast?_eq_getElem?, buildMessage_eq, List.getLast?_concat]
  · rw [hiB_buildMessage, List.any_eq_false]
    intro b hb
    simpa using hlow b hb

/-! ### The end of a framing command -/

/-- With STRICT = 1 a warning is ConfigurationError, and both warnings are reported (R187). -/
theorem framed_of_warning {L : Latch} {out : List Byte} (n : Nat) (hstrict : L.strict = true)
    (hwarn : cfgW L = true ∨ hiB out = true) :
    framed L n out = ⟨.configurationError, 0, [], cfgW L, hiB out⟩ := by
  rw [← framed_message_eq, if_pos ⟨hstrict, hwarn⟩]

/-- With STRICT = 0, or without a warning, the message is the output (R187). -/
theorem framed_of_no_warning {L : Latch} {out : List Byte} (n : Nat)
    (h : L.strict = false ∨ (cfgW L = false ∧ hiB out = false)) : framed L n out = ⟨.ok, n, out, cfgW L, hiB out⟩ := by
  rw [← framed_message_eq, if_neg]
  rintro ⟨hstrict, hwarn⟩
  rcases h with h | ⟨hc, hh⟩
  · simp [h] at hstrict
  · simp [hc, hh] at hwarn

/-- A command whose result is a framed message, its bytes given in index form, writes it or reports the warnings. -/
theorem framesOrReports_of_result {i : Instr} {s : State} {n : Nat} {out : List Byte} {byte : Nat → Byte}
    (hr : commandResult i s = framed s.latch n out) (hl : out.length = n) (hb : ∀ p < n, out[p]? = some (byte p)) :
    FramesOrReports i s n byte := by
  intro cfgw hib hcfgw hhib
  obtain rfl : cfgW s.latch = cfgw := Bool.eq_iff_iff.2 ((cfgW_eq_true s.latch).trans hcfgw.symm)
  obtain rfl : hiB out = hib := Bool.eq_iff_iff.2 ((hiB_eq_true hl hb).trans hhib.symm)
  refine ⟨fun hstrict hwarn => ?_, fun hpass => ?_⟩
  · rw [exec_eq, hr, framed_of_warning n hstrict hwarn, complete_error (by simp)]
    rfl
  · exact writes_of_result (hr.trans (framed_of_no_warning n hpass)) hl hb

/-! ### FRAME's result -/

theorem frameResult_of_overCapacity {s : State} (h : s.latch.overCapacity = true) :
    frameResult s = .error .headerCapacity :=
  if_pos h

/-- FRAME's result when the header lengths fit: the range checks, then the message. -/
theorem frameResult_of_capacity {s : State} (h : s.latch.overCapacity = false) :
    frameResult s = (s.latch.rangeError s.params.memSize (2 + s.latch.headerLen + s.latch.len.toNat)).elim
      (framed s.latch (2 + s.latch.headerLen + s.latch.len.toNat) (s.latch.message s.source)) .error := by
  rw [frameResult, h]
  dsimp only
  cases s.latch.rangeError s.params.memSize (2 + s.latch.headerLen + s.latch.len.toNat) <;> rfl

theorem length_message_source {s : State} (h : s.latch.overCapacity = false) :
    (s.latch.message s.source).length = 2 + s.latch.headerLen + s.latch.len.toNat := by
  rw [length_message h, length_source]

/-- The message of FRAME in index form: the payload is the source bytes in MEM (R140, R144). -/
theorem getElem?_message_source {s : State} (h : s.latch.overCapacity = false) {p : Nat}
    (hp : p < 2 + s.latch.headerLen + s.latch.len.toNat) :
    (s.latch.message s.source)[p]? =
      some (messageByte s.latch (fun k => s.mem.read (s.latch.src.toNat + k)) s.latch.len.toNat p) := by
  have hpayload : ∀ k < s.source.length, s.source[k]? = some (s.mem.read (s.latch.src.toNat + k)) := fun k hk => by
    rw [getElem?_source, if_pos (length_source s ▸ hk)]
  rw [getElem?_message h hpayload (by rwa [length_source]), length_source]

/-! ### FRAME's completion -/

/-- Settles O27, by the cases of R144: a header length above its array, a range error, and the framed message. -/
theorem frameFollowsItsRule : Obligations.FrameFollowsItsRule := by
  refine ⟨decode_encode .frame, fun s n hn => ?_⟩
  obtain rfl : n = 2 + s.latch.headerLen + s.latch.len.toNat := by
    rw [hn, Latch.headerLen]
    omega
  refine ⟨fun hover => ?_, fun hm hd hc => ?_⟩
  · exact exec_of_error (by decide) (frameResult_of_overCapacity (overCapacity_eq_true.2 hover))
  · have hcap : s.latch.overCapacity = false := overCapacity_eq_false.2 ⟨hm, hd, hc⟩
    have hresult := frameResult_of_capacity hcap
    refine ⟨rangeErrors_of_result fun e he => ?_, fun hpass => ?_⟩
    · exact hresult.trans (by rw [he]; rfl)
    · refine framesOrReports_of_result (hresult.trans ?_) (length_message_source hcap)
        fun _ hp => getElem?_message_source hcap hp
      rw [rangeError_of_rangesPass hpass]
      rfl

end Sys2Proof.Machine
end

section
/-! PROOF. PNF (O28, O47): its result in each case of R161 and what its completion writes; then what a command that
succeeds must have passed, and that PNF equals PACK, NIBZ and FRAME in turn (R162). -/

namespace Sys2Proof.Machine

/-! ### PNF's result -/

/-- Byte `k` of PNF's payload: a nibble of the byte of MEM that `packIndex` names (R101, R120, R160). -/
def State.fusedPayload (s : State) (k : Nat) : Byte :=
  let b := s.mem.read (s.latch.src.toNat + packIndex (k / 2))
  if k % 2 = 0 then b &&& 0x0F#8 else b >>> 4

/-- `len(Nibblize(Pack(buf))) = 2064` (R160). -/
theorem length_fusedPayload {s : State} (hlen : s.latch.len.toNat = 2048) :
    (nibblize (pack s.source)).length = 2064 := by
  rw [length_nibblize, length_pack ((length_source s).trans hlen)]

theorem getElem?_fusedPayload {s : State} (hlen : s.latch.len.toNat = 2048) {k : Nat} (hk : k < 2064) :
    (nibblize (pack s.source))[k]? = some (s.fusedPayload k) := by
  have hbyte : k / 2 < 1032 := by omega
  rw [getElem?_nibblize, getElem?_pack_source hlen hbyte, Option.map_some, shiftRight_and_mask]
  rfl

/-- `n = 2066 + mlen + dlen + clen` (R161). -/
theorem length_fusedMessage {s : State} (hcap : s.latch.overCapacity = false) (hlen : s.latch.len.toNat = 2048) :
    (s.latch.message (nibblize (pack s.source))).length = 2066 + s.latch.headerLen := by
  rw [length_message hcap, length_fusedPayload hlen]
  omega

theorem getElem?_fusedMessage {s : State} (hcap : s.latch.overCapacity = false) (hlen : s.latch.len.toNat = 2048)
    {p : Nat} (hp : p < 2066 + s.latch.headerLen) :
    (s.latch.message (nibblize (pack s.source)))[p]? = some (messageByte s.latch s.fusedPayload 2064 p) := by
  have hpl := length_fusedPayload hlen
  rw [getElem?_message hcap (fun k hk => getElem?_fusedPayload hlen (hpl ▸ hk)) (by omega), hpl]

theorem pnfResult_of_overCapacity {s : State} (h : s.latch.overCapacity = true) :
    pnfResult s = .error .headerCapacity :=
  if_pos h

theorem pnfResult_of_wrong_size {s : State} (hcap : s.latch.overCapacity = false) (hlen : s.latch.len.toNat ≠ 2048) :
    pnfResult s = .error .invalidInputSize := by
  rw [pnfResult, hcap]
  exact if_pos hlen

theorem pnfResult_of_rangeError {s : State} {e : ErrCode} (hcap : s.latch.overCapacity = false)
    (hlen : s.latch.len.toNat = 2048)
    (he : s.latch.rangeError s.params.memSize (2066 + s.latch.headerLen) = some e) : pnfResult s = .error e := by
  simp [pnfResult, hcap, hlen, Config.wtLen, Config.nibPackLen, he]

theorem pnfResult_of_rangesPass {s : State} (hcap : s.latch.overCapacity = false) (hlen : s.latch.len.toNat = 2048)
    (hpass : s.RangesPass (2066 + s.latch.headerLen)) :
    pnfResult s = framed s.latch (2066 + s.latch.headerLen) (s.latch.message (nibblize (pack s.source))) := by
  simp [pnfResult, hcap, hlen, Config.wtLen, Config.nibPackLen, rangeError_of_rangesPass hpass]

/-! ### PNF's completion -/

/-- Settles O28, by the cases of R161: a header length above its array, a wrong size, a range error, and the message
with the nibbles of the packed bytes as its payload. -/
theorem pnfFollowsItsRule : Obligations.PnfFollowsItsRule := by
  refine ⟨decode_encode .pnf, fun s n hn => ?_⟩
  obtain rfl : n = 2066 + s.latch.headerLen := by
    rw [hn, Latch.headerLen]
    omega
  refine ⟨fun hover => ?_, fun hm hd hc => ?_⟩
  · exact exec_of_error (by decide) (pnfResult_of_overCapacity (overCapacity_eq_true.2 hover))
  have hcap : s.latch.overCapacity = false := overCapacity_eq_false.2 ⟨hm, hd, hc⟩
  refine ⟨fun hsize => ?_, fun hlen => ⟨?_, fun hpass => ?_⟩⟩
  · exact exec_of_error (by decide) (pnfResult_of_wrong_size hcap hsize)
  · exact rangeErrors_of_result fun _ he => pnfResult_of_rangeError hcap hlen he
  · exact framesOrReports_of_result (pnfResult_of_rangesPass hcap hlen hpass) (length_fusedMessage hcap hlen)
      fun _ hp => getElem?_fusedMessage hcap hlen hp

/-! ### What a command that succeeds has passed -/

/-- A command that reports the range errors of `n` output bytes and yet succeeds passed the range checks. -/
theorem rangesPass_of_ok {s : State} {n : Nat} {r : Result}
    (hreport : ∀ e, s.latch.rangeError s.params.memSize n = some e → r = .error e) (hok : r.code = .ok) :
    s.RangesPass n := by
  have hnone : s.latch.rangeError s.params.memSize n = none := by
    by_contra hsome
    obtain ⟨e, he⟩ := Option.ne_none_iff_exists'.1 hsome
    rw [hreport e he] at hok
    exact Latch.rangeError_ne_ok he hok
  obtain ⟨hsrc, hdst, hdisjoint⟩ := Latch.rangeError_eq_none.1 hnone
  refine ⟨hsrc, hdst, ?_⟩
  simp only [overlaps, Bool.and_eq_false_iff, decide_eq_false_iff_not] at hdisjoint
  omega

/-- A framed message that is no error is the output, with both warnings (R187). -/
theorem framed_of_ok {L : Latch} {n : Nat} {out : List Byte} (h : (framed L n out).code = .ok) :
    framed L n out = ⟨.ok, n, out, cfgW L, hiB out⟩ := by
  unfold framed at h ⊢
  split_ifs at h ⊢
  rfl

/-- PACK succeeds only on 2048 bytes and with both ranges passed (R102). -/
theorem checks_of_packResult_ok {s : State} (hok : (packResult s).code = .ok) :
    s.latch.len.toNat = 2048 ∧ s.RangesPass 1032 := by
  have hlen : s.latch.len.toNat = 2048 := by
    by_contra h
    rw [packResult_of_wrong_size h] at hok
    cases hok
  exact ⟨hlen, rangesPass_of_ok (fun _ he => packResult_of_rangeError hlen he) hok⟩

/-- NIBZ succeeds only with both ranges passed (R121). -/
theorem checks_of_nibzResult_ok {s : State} (hok : (nibzResult s).code = .ok) :
    s.RangesPass (2 * s.latch.len.toNat) :=
  rangesPass_of_ok (fun _ he => nibzResult_of_rangeError he) hok

/-- FRAME succeeds only with its header lengths and both ranges passed (R144). -/
theorem checks_of_frameResult_ok {s : State} (hok : (frameResult s).code = .ok) :
    s.latch.overCapacity = false ∧ s.RangesPass (2 + s.latch.headerLen + s.latch.len.toNat) := by
  have hcap : s.latch.overCapacity = false := by
    by_contra h
    rw [frameResult_of_overCapacity (eq_true_of_ne_false h)] at hok
    cases hok
  exact ⟨hcap, rangesPass_of_ok (fun _ he => by rw [frameResult_of_capacity hcap, he]; rfl) hok⟩

/-- PNF succeeds only with its header lengths, its size and both ranges passed (R161). -/
theorem checks_of_pnfResult_ok {s : State} (hok : (pnfResult s).code = .ok) :
    s.latch.overCapacity = false ∧ s.latch.len.toNat = 2048 ∧ s.RangesPass (2066 + s.latch.headerLen) := by
  have hcap : s.latch.overCapacity = false := by
    by_contra h
    rw [pnfResult_of_overCapacity (eq_true_of_ne_false h)] at hok
    cases hok
  have hlen : s.latch.len.toNat = 2048 := by
    by_contra h
    rw [pnfResult_of_wrong_size hcap h] at hok
    cases hok
  exact ⟨hcap, hlen, rangesPass_of_ok (fun _ he => pnfResult_of_rangeError hcap hlen he) hok⟩

/-- Every command that succeeds passed the range checks for its output length (R183 to R185). -/
theorem rangesPass_of_commandResult_ok {i : Instr} {s : State} (hok : (commandResult i s).code = .ok) :
    s.RangesPass (outLenOf i s.latch) := by
  cases i with
  | pack => exact (checks_of_packResult_ok hok).2
  | nibz => exact checks_of_nibzResult_ok hok
  | frame =>
    have hn : outLenOf .frame s.latch = 2 + s.latch.headerLen + s.latch.len.toNat := by
      rw [outLenOf]
      omega
    exact hn ▸ (checks_of_frameResult_ok hok).2
  | pnf =>
    have hn : outLenOf .pnf s.latch = 2066 + s.latch.headerLen := by
      rw [outLenOf, Config.nibPackLen]
      omega
    exact hn ▸ (checks_of_pnfResult_ok hok).2.2

/-! ### Commands that succeed -/

/-- A command that ends with ERR 0 commits its result. -/
theorem commit_of_exec_ok {i : Instr} {s t : State} (h : exec i s = .next t) (hok : t.status.err = .ok) :
    (commandResult i s).code = .ok ∧
      t = s.commit (commandResult i s).n (commandResult i s).out (commandResult i s).cfgw (commandResult i s).hib := by
  obtain rfl := Host.Outcome.next.inj ((exec_eq i s).symm.trans h)
  rw [complete_status, Status.completed_err] at hok
  exact ⟨hok, complete_ok hok⟩

/-- No command changes a byte of its own source (R185). -/
theorem exec_keeps_source {i : Instr} {s t : State} (h : exec i s = .next t) {k : Nat} (hk : k < s.latch.len.toNat) :
    t.mem.read (s.latch.src.toNat + k) = s.mem.read (s.latch.src.toNat + k) := by
  obtain ⟨-, -, -, -, hkept, hkeptOnError, -⟩ := commandsChangeOnlyOutputAndStatus i s t h
  by_cases hok : t.status.err = .ok
  · obtain ⟨-, -, hdisjoint⟩ := rangesPass_of_commandResult_ok (commit_of_exec_ok h hok).1
    exact hkept _ (by omega)
  · exact hkeptOnError hok _

/-- PACK that succeeds commits its packed source (R102). -/
theorem exec_pack_ok {s t : State} (h : exec .pack s = .next t) (hok : t.status.err = .ok) :
    t = s.commit 1032 (pack s.source) false false := by
  obtain ⟨hcode, ht⟩ := commit_of_exec_ok h hok
  obtain ⟨hlen, hpass⟩ := checks_of_packResult_ok hcode
  rw [ht, commandResult, packResult_of_rangesPass hlen hpass]

/-- NIBZ that succeeds commits the nibbles of its source (R121). -/
theorem exec_nibz_ok {s t : State} (h : exec .nibz s = .next t) (hok : t.status.err = .ok) :
    t = s.commit (2 * s.latch.len.toNat) (nibblize s.source) false false := by
  obtain ⟨hcode, ht⟩ := commit_of_exec_ok h hok
  rw [ht, commandResult, nibzResult_of_rangesPass (checks_of_nibzResult_ok hcode)]

/-- FRAME that succeeds commits the message of its source (R144). -/
theorem exec_frame_ok {s t : State} (h : exec .frame s = .next t) (hok : t.status.err = .ok) :
    t = s.commit (2 + s.latch.headerLen + s.latch.len.toNat) (s.latch.message s.source) (cfgW s.latch)
      (hiB (s.latch.message s.source)) := by
  obtain ⟨hcode, ht⟩ := commit_of_exec_ok h hok
  obtain ⟨hcap, hpass⟩ := checks_of_frameResult_ok hcode
  have hresult : commandResult .frame s =
      framed s.latch (2 + s.latch.headerLen + s.latch.len.toNat) (s.latch.message s.source) := by
    rw [commandResult, frameResult_of_capacity hcap, rangeError_of_rangesPass hpass]
    rfl
  rw [hresult] at hcode ht
  rw [ht, framed_of_ok hcode]

/-- PNF that succeeds commits the message of the nibbles of its packed source (R161). -/
theorem exec_pnf_ok {s t : State} (h : exec .pnf s = .next t) (hok : t.status.err = .ok) :
    (s.latch.message (nibblize (pack s.source))).length = 2066 + s.latch.headerLen ∧
      t = s.commit (2066 + s.latch.headerLen) (s.latch.message (nibblize (pack s.source))) (cfgW s.latch)
        (hiB (s.latch.message (nibblize (pack s.source)))) := by
  obtain ⟨hcode, ht⟩ := commit_of_exec_ok h hok
  obtain ⟨hcap, hlen, hpass⟩ := checks_of_pnfResult_ok hcode
  have hresult := pnfResult_of_rangesPass hcap hlen hpass
  rw [commandResult, hresult] at hcode ht
  exact ⟨length_fusedMessage hcap hlen, by rw [ht, framed_of_ok hcode]⟩

/-! ### PNF and the three commands in turn -/

/-- The header groups are at most 3 · 31 bytes long (R32). -/
theorem Latch.headerLen_lt (L : Latch) : L.headerLen < 94 := by
  have hm := L.mlen.isLt
  have hd := L.dlen.isLt
  have hc := L.clen.isLt
  rw [Latch.headerLen]
  omega

/-- The state whose command `runCommand` completes: the operands written and the command issued. -/
def State.inFlight (s : State) (i : Instr) (src len dst : Word) : State :=
  ({ s with srcAddr := src, srcLen := len, dstAddr := dst } : State).issue (encode i)

theorem runCommand_eq (s : State) (i : Instr) (src len dst : Word) :
    s.runCommand i src len dst = exec i (s.inFlight i src len dst) := rfl

@[simp] theorem mem_inFlight (s : State) (i : Instr) (src len dst : Word) :
    (s.inFlight i src len dst).mem = s.mem := rfl
@[simp] theorem src_inFlight (s : State) (i : Instr) (src len dst : Word) :
    (s.inFlight i src len dst).latch.src = src := rfl
@[simp] theorem len_inFlight (s : State) (i : Instr) (src len dst : Word) :
    (s.inFlight i src len dst).latch.len = len := rfl
@[simp] theorem dst_inFlight (s : State) (i : Instr) (src len dst : Word) :
    (s.inFlight i src len dst).latch.dst = dst := rfl

/-- A command whose source is just what was last written there reads it back. -/
theorem source_inFlight_of_written {s : State} {m : Memory} {v : List Byte} {a len : Word} (i : Instr) (dst : Word)
    (hm : s.mem = m.writeSeq a.toNat v) (hv : v.length = len.toNat) : (s.inFlight i a len dst).source = v := by
  rw [State.source, mem_inFlight, src_inFlight, len_inFlight, hm, ← hv, Memory.readSeq_writeSeq]

/-- The registers that a message's header and CFGW come from (R32, R33). -/
def State.header (s : State) : HdrLen × Header × Header × Header := (s.hdrLen, s.mfrId, s.devId, s.cmdId)

/-- No command changes the header registers (R87). -/
theorem header_of_runCommand {s t : State} {i : Instr} {src len dst : Word}
    (h : s.runCommand i src len dst = .next t) : t.header = s.header := by
  rw [(commandsChangeOnlyOutputAndStatus i _ t h).1]
  rfl

/-- Commands issued with the same header registers frame a payload alike (R141, R142). -/
theorem framing_of_header_eq {s t : State} (h : t.header = s.header) (i j : Instr) (src len src' len' dst : Word) :
    (t.inFlight i src len dst).latch.headerLen = (s.inFlight j src' len' dst).latch.headerLen ∧
      cfgW (t.inFlight i src len dst).latch = cfgW (s.inFlight j src' len' dst).latch ∧
      ∀ p, (t.inFlight i src len dst).latch.message p = (s.inFlight j src' len' dst).latch.message p := by
  simp only [State.header, Prod.mk.injEq] at h
  obtain ⟨hlen, hmfr, hdev, hcmd⟩ := h
  simp [State.inFlight, State.latchOf, Latch.headerLen, cfgW, Latch.message, Latch.mfrBytes, Latch.devBytes,
    Latch.cmdBytes, hlen, hmfr, hdev, hcmd]

/-- PACK and NIBZ in turn leave at C the nibbles of the packed source of PACK (R102, R121). -/
theorem mem_of_pack_nibz {s s₁ s₂ : State} {A B C : Word}
    (h₁ : s.runCommand .pack A 2048 B = .next s₁) (hok₁ : s₁.status.err = .ok)
    (h₂ : s₁.runCommand .nibz B 1032 C = .next s₂) (hok₂ : s₂.status.err = .ok) :
    s₂.mem = s₁.mem.writeSeq C.toNat (nibblize (pack (s.inFlight .pack A 2048 B).source)) := by
  rw [runCommand_eq] at h₁ h₂
  have hlen : (s.inFlight .pack A 2048 B).latch.len.toNat = 2048 := rfl
  have hmem : s₁.mem = s.mem.writeSeq B.toNat (pack (s.inFlight .pack A 2048 B).source) := by
    rw [exec_pack_ok h₁ hok₁, State.commit_mem, mem_inFlight, dst_inFlight]
  have hsource : (s₁.inFlight .nibz B 1032 C).source = pack (s.inFlight .pack A 2048 B).source :=
    source_inFlight_of_written .nibz C hmem (length_pack ((length_source _).trans hlen))
  rw [exec_nibz_ok h₂ hok₂, hsource, State.commit_mem, mem_inFlight, dst_inFlight]

/-- PACK, NIBZ and FRAME in turn commit at D the message that PNF, in flight in `p`, frames (R160, R162). -/
theorem commit_of_pack_nibz_frame {s s₁ s₂ s₃ p : State} {A B C D : Word}
    (h₁ : s.runCommand .pack A 2048 B = .next s₁) (hok₁ : s₁.status.err = .ok)
    (h₂ : s₁.runCommand .nibz B 1032 C = .next s₂) (hok₂ : s₂.status.err = .ok)
    (h₃ : s₂.runCommand .frame C 2064 D = .next s₃) (hok₃ : s₃.status.err = .ok)
    (hp : p = s.inFlight .pnf A 2048 D) :
    s₃ = (s₂.inFlight .frame C 2064 D).commit (2066 + p.latch.headerLen)
      (p.latch.message (nibblize (pack p.source))) (cfgW p.latch)
      (hiB (p.latch.message (nibblize (pack p.source)))) := by
  have hlen : (s.inFlight .pack A 2048 B).latch.len.toNat = 2048 := rfl
  have hsame : (s.inFlight .pack A 2048 B).source = p.source := hp ▸ rfl
  have hsource : (s₂.inFlight .frame C 2064 D).source = nibblize (pack p.source) :=
    hsame ▸ source_inFlight_of_written .frame D (mem_of_pack_nibz h₁ hok₁ h₂ hok₂) (length_fusedPayload hlen)
  obtain ⟨hheaderLen, hcfgw, hmessage⟩ :=
    framing_of_header_eq ((header_of_runCommand h₂).trans (header_of_runCommand h₁)) .frame .pnf C 2064 A 2048 D
  rw [← hp] at hheaderLen hcfgw hmessage
  have hn : 2 + p.latch.headerLen + (s₂.inFlight .frame C 2064 D).latch.len.toNat = 2066 + p.latch.headerLen := by
    have : (s₂.inFlight .frame C 2064 D).latch.len.toNat = 2064 := rfl
    omega
  rw [runCommand_eq] at h₃
  have hs₃ := exec_frame_ok h₃ hok₃
  rwa [hsource, hheaderLen, hcfgw, hmessage, hn] at hs₃

/-- Settles O47: both commit the same message at D, and no command touches its own source. -/
theorem pnfEqualsPackThenNibzThenFrame : Obligations.PnfEqualsPackThenNibzThenFrame := by
  intro s s₁ s₂ s₃ t A B C D h₁ hok₁ h₂ hok₂ h₃ hok₃ h hok
  obtain ⟨p, hp⟩ : ∃ p, p = s.inFlight .pnf A 2048 D := ⟨_, rfl⟩
  have hs₃ := commit_of_pack_nibz_frame h₁ hok₁ h₂ hok₂ h₃ hok₃ hp
  rw [runCommand_eq] at h₂ h₃ h
  obtain ⟨hmsg, ht⟩ := exec_pnf_ok h hok
  rw [← hp] at hmsg ht
  generalize p.latch.message (nibblize (pack p.source)) = msg at hs₃ hmsg ht
  have hdst : p.latch.dst = D := by rw [hp, dst_inFlight]
  have hout : t.outLen.toNat = msg.length := by
    have := p.latch.headerLen_lt
    rw [ht, State.commit_outLen, BitVec.toNat_ofNat]
    omega
  refine ⟨by rw [hs₃, ht]; rfl, by rw [hs₃, ht]; rfl, by rw [hs₃, ht]; rfl, fun k hk => ?_,
    fun k hk => exec_keeps_source h₂ hk, fun k hk => exec_keeps_source h₃ hk, fun a ha => ?_⟩
  · have hin : D.toNat ≤ D.toNat + k ∧ D.toNat + k < D.toNat + msg.length := by omega
    rw [hs₃, ht, State.commit_mem, State.commit_mem, dst_inFlight, hdst, Memory.read_writeSeq, Memory.read_writeSeq,
      if_pos hin, if_pos hin]
  · rw [hout] at ha
    rw [ht, State.commit_mem, hdst, Memory.read_writeSeq, if_neg ha, hp, mem_inFlight]

end Sys2Proof.Machine
end

section
/-! PROOF. Errors: that they are precise, what the overlap test says, and what sets and clears VIOL (O30, O35, O37). -/

namespace Sys2Proof.Machine

/-! ### The overlap test -/

/-- Settles O35: when the ranges share a byte, the higher of the two start addresses is one. -/
theorem overlapMeansASharedByte : Obligations.OverlapMeansASharedByte := by
  intro a m b k
  simp only [overlaps, Bool.and_eq_true, decide_eq_true_eq]
  constructor
  · rintro ⟨⟨⟨hm, hk⟩, hab⟩, hba⟩
    exact ⟨max a b, by omega, by omega⟩
  · rintro ⟨x, hsrc, hdst⟩
    omega

/-! ### Precise errors -/

/-- While BUSY = 1 a host access changes nothing of the block but DONE and VIOL (R38, R39, R71). -/
theorem HostEffect.busy_eq {s t : State} (h : HostEffect s t) (hb : s.status.busy = true) :
    t = { s with
      status := { s.status with done := t.status.done, viol := t.status.viol }
      reads := t.reads, draws := t.draws } := by
  cases h with
  | store _ hidle | mem _ hidle => exact absurd hb (by simp [hidle])
  | none | read | drawWord | drawByte | clear | violate | maybeViolate | drawn => rfl

theorem hostOp_eq_of_busy {s : State} (hb : s.status.busy = true) (op : HostOp) :
    s.hostOp op = { s with
      status := { s.status with done := (s.hostOp op).status.done, viol := (s.hostOp op).status.viol }
      pc := (s.hostOp op).pc, reads := (s.hostOp op).reads, draws := (s.hostOp op).draws } := by
  obtain ⟨t, pc, heffect, heq⟩ := hostOp_eq s op
  rw [heq]
  exact congrArg (fun u : State => { u with pc := pc }) (heffect.busy_eq hb)

/-- An error other than ConfigurationError reports no warning (R86, R190). -/
theorem Result.Shape.configurationError_of_warning {s : State} {r : Result} (h : r.Shape s) (herr : r.code ≠ .ok)
    (hwarn : r.cfgw = true ∨ r.hib = true) : r.code = .configurationError := by
  cases h with
  | success => exact absurd rfl herr
  | configuration => rfl
  | early => exact absurd hwarn (by simp [Result.error])

/-- Settles O30: a completion with an error code is `raise`, and before it a host access keeps all but DONE and VIOL. -/
theorem errorsArePrecise : Obligations.ErrorsArePrecise := by
  refine ⟨fun s op hb => hostOp_eq_of_busy hb op, fun s t hst herr => ?_⟩
  obtain rfl := Host.Outcome.next.inj ((completeLatched_eq s).symm.trans hst)
  rw [complete_status, Status.completed_err] at herr
  rw [complete_error herr]
  exact ⟨rfl, (shape_latchedResult s).configurationError_of_warning herr⟩

/-! ### What changes VIOL -/

/-- VIOL after a register write: it is kept, set by a dropped write, or cleared by write-one-to-clear (R26, R39). -/
theorem viol_writeReg (s : State) (r : Reg) (w : Word) :
    (s.writeReg r w).status.viol = s.status.viol ∨
      (s.status.busy = true ∧ r.guarded = true ∧ (s.writeReg r w).status.viol = true) ∨
      (r = .status ∧ w.getLsbD 10 = true ∧ (s.writeReg r w).status.viol = false) := by
  unfold State.writeReg
  split
  · rename_i hdrop
    obtain ⟨hb, hg⟩ := Bool.and_eq_true_iff.1 hdrop
    exact .inr (.inl ⟨hb, hg, rfl⟩)
  · cases r with
    | status =>
      have hviol : (s.storeReg w .status).status.viol = (s.status.viol && !w.getLsbD 10) := rfl
      rw [hviol]
      cases w.getLsbD 10 with
      | false => exact .inl (Bool.and_true _)
      | true => exact .inr (.inr ⟨rfl, rfl, Bool.and_false _⟩)
    | _ => exact .inl rfl

/-- VIOL after an `MWR`: it is kept, or set by one that is dropped while BUSY = 1 (R62, R71; log 10). -/
theorem viol_memWrite (s : State) (a : Nat) (v : Byte) :
    (s.memWrite a v).status.viol = s.status.viol ∨
      (s.rst = false ∧ s.status.busy = true ∧ (s.memWrite a v).status.viol = true) := by
  unfold State.memWrite
  split
  · exact .inl rfl
  · rename_i hrst
    split
    · rename_i hb
      split
      · exact .inr ⟨by simpa using hrst, hb, rfl⟩
      · cases hfree : Config.freeBit s.draws with
        | false => exact .inl (by simp [hfree])
        | true => exact .inr ⟨by simpa using hrst, hb, by simp [hfree]⟩
    · split <;> exact .inl rfl

/-- An access that is no write leaves STATUS as it is (R42, R61, R88). -/
theorem hostOp_status_of_no_write (s : State) {op : HostOp} (hreg : ∀ wd o w, op ≠ .rwr wd o w)
    (hmem : ∀ a v, op ≠ .mwr a v) : (s.hostOp op).status = s.status := by
  cases op with
  | rwr wd o w => exact absurd rfl (hreg wd o w)
  | mwr a v => exact absurd rfl (hmem a v)
  | rrd wd o =>
    change (s.portRead wd o).status = s.status
    unfold State.portRead
    split_ifs <;> rfl
  | mrd a =>
    change (s.memRead a).status = s.status
    unfold State.memRead
    split <;> rfl
  | bnz l mask target =>
    change (s.branch l mask target).status = s.status
    unfold State.branch State.branchOn
    split <;> split <;> rfl

/-- `op` is a host write that R39 or R71 drops while BUSY = 1: of a guarded register, or to MEM. -/
abbrev HostOp.Droppable (op : HostOp) : Prop :=
  (∃ r w, op = .write r w ∧ r.guarded = true) ∨ ∃ a v, op = .mwr a v

/-- VIOL after a line of the host program: it is kept, cleared by a write of 1 to STATUS bit 10, or set by a write that is
dropped while BUSY = 1 (R188). -/
theorem viol_hostOp (s : State) (op : HostOp) :
    (s.hostOp op).status.viol = s.status.viol ∨
      (s.rst = false ∧ (∃ w, op = .write .status w ∧ w.getLsbD 10 = true) ∧ (s.hostOp op).status.viol = false) ∨
      (s.rst = false ∧ s.status.busy = true ∧ op.Droppable ∧ (s.hostOp op).status.viol = true) := by
  cases op with
  | rwr wd o w =>
    have hport : (s.hostOp (.rwr wd o w)).status = (s.portWrite wd o w).status := rfl
    rw [hport]
    rcases portWrite_cases s wd o w with h | ⟨r, hop, hrst, h⟩ <;> rw [h]
    · exact .inl rfl
    · rw [hop]
      rcases viol_writeReg s r w with hk | ⟨hb, hg, hv⟩ | ⟨rfl, hw, hv⟩
      · exact .inl hk
      · exact .inr (.inr ⟨hrst, hb, .inl ⟨r, w, rfl, hg⟩, hv⟩)
      · exact .inr (.inl ⟨hrst, ⟨w, rfl, hw⟩, hv⟩)
  | mwr a v =>
    rcases viol_memWrite s a v with hk | ⟨hrst, hb, hv⟩
    · exact .inl hk
    · exact .inr (.inr ⟨hrst, hb, .inr ⟨a, v, rfl⟩, hv⟩)
  | rrd | mrd | bnz => exact .inl (congrArg Status.viol (hostOp_status_of_no_write s nofun nofun))

/-- Outside reset a step that changes VIOL is a line of the host program. -/
theorem step_viol {s t : State} (hst : step s = .next t) (hreset : ¬s.AtReset) :
    t.status.viol = s.status.viol ∨ ∃ op, s.AtHostOp op ∧ t = s.popTurn.hostOp op := by
  by_cases hcompl : s.AtCompletion
  · obtain rfl := Host.Outcome.next.inj (((step_completion hcompl).trans (completeLatched_eq _)).symm.trans hst)
    exact .inl (by rw [complete_status, Status.completed_viol, State.popTurn_status])
  · rcases step_of_not_completion_not_reset hst hreset hcompl with rfl | hop
    · exact .inl rfl
    · exact .inr hop

/-- After a step that resets, VIOL is 0 (R41). -/
theorem viol_of_atReset {s t : State} (hst : step s = .next t) (hreset : s.AtReset) : t.status.viol = false := by
  obtain ⟨t', hst', hvalues⟩ := step_atReset hreset
  obtain rfl := Host.Outcome.next.inj (hst'.symm.trans hst)
  have hbit : t'.status.word.getLsbD 10 = t'.status.viol := Status.getLsbD_word _ 10
  rw [← hbit, hvalues.status]
  exact BitVec.getLsbD_zero

/-- A step that clears VIOL is a write of 1 to STATUS bit 10 or a reset (R188). -/
theorem step_clears_viol {s t : State} (hst : step s = .next t) (hv : s.status.viol = true)
    (hv' : t.status.viol = false) :
    (s.turn = .host ∧ s.rst = false ∧ ∃ w : Word, s.prog[s.pc]? = some (.write .status w) ∧ w.getLsbD 10 = true) ∨
      s.AtReset := by
  by_cases hreset : s.AtReset
  · exact .inr hreset
  rcases step_viol hst hreset with hk | ⟨op, ⟨hturn, hop⟩, rfl⟩
  · simp [hk, hv] at hv'
  rcases viol_hostOp s.popTurn op with hk | ⟨hrst, ⟨w, rfl, hw⟩, -⟩ | ⟨-, -, -, hset⟩
  · simp [hk, hv] at hv'
  · exact .inl ⟨hturn, hrst, w, hop, hw⟩
  · simp [hset] at hv'

/-- A step that sets VIOL is a host write that is dropped while BUSY = 1 (R39, R71, R188). -/
theorem step_sets_viol {s t : State} (hst : step s = .next t) (hv : s.status.viol = false)
    (hv' : t.status.viol = true) :
    s.rst = false ∧ s.status.busy = true ∧ ∃ op, s.AtHostOp op ∧ op.Droppable := by
  have hreset : ¬s.AtReset := fun h => by simp [viol_of_atReset hst h] at hv'
  rcases step_viol hst hreset with hk | ⟨op, hop, rfl⟩
  · simp [hk, hv] at hv'
  rcases viol_hostOp s.popTurn op with hk | ⟨-, -, hclear⟩ | ⟨hrst, hb, hdrop, -⟩
  · simp [hk, hv] at hv'
  · simp [hclear] at hv'
  · exact ⟨hrst, hb, op, hop, hdrop⟩

/-- Settles O37: a dropped write is `violate`; what changes VIOL is a host write outside reset, or the reset. -/
theorem violIsStickyAndSetOnlyByDroppedWrites : Obligations.ViolIsStickyAndSetOnlyByDroppedWrites := by
  refine ⟨fun s r w hr hb hg => ?_, fun s a v hr hb ha => ?_, fun s t => step_clears_viol, fun s t hst hv hv' => ?_⟩
  · rw [hostOp_write_dropped hr hb hg]
    exact ⟨rfl, rfl, rfl, hb⟩
  · rw [hostOp_mwr_dropped hr hb ha]
    exact ⟨rfl, rfl, rfl⟩
  · obtain ⟨hrst, hb, op, ⟨hturn, hop⟩, hdrop⟩ := step_sets_viol hst hv hv'
    refine ⟨hturn, hrst, hb, ?_⟩
    rcases hdrop with ⟨r, w, rfl, hg⟩ | ⟨a, v, rfl⟩
    · exact .inl ⟨r, w, hop, hg⟩
    · exact .inr ⟨a, v, hop⟩

end Sys2Proof.Machine
end

section
/-! PROOF. Reset: what asserting and deasserting RST leaves, what the host's accesses do in reset, and the command that a reset
abandons (O2, O3, O4). -/

namespace Sys2Proof.Machine

/-! ### The turns of the reset input -/

theorem step_assertRst {s : State} (h : s.turn = .assertRst) : step s = .next s.popTurn.assertRst := by
  rw [step, h]

/-- Deasserting RST gives every register its reset value again (R210). -/
theorem step_deassertRst {s : State} (h : s.turn = .deassertRst) (hr : s.rst = true) :
    step s = .next { s.popTurn.resetRegs with rst := false } := by
  rw [step, h]
  exact congrArg Host.Outcome.next (if_pos hr)

/-- With no command in flight a reset keeps MEM (R212). -/
theorem assertRst_mem_of_idle {s : State} (hb : s.status.busy = false) : s.assertRst.mem = s.mem := by
  rw [State.assertRst, if_neg (by simp [hb])]
  rfl

/-- A reset that leaves no byte open keeps MEM. -/
theorem assertRst_mem_of_abandonedLen_eq_zero {s : State} (h : s.abandonedLen = 0) : s.assertRst.mem = s.mem := by
  cases hb : s.status.busy with
  | false => exact assertRst_mem_of_idle hb
  | true =>
    rw [State.assertRst, if_pos hb, State.resetRegs_mem, State.abandon_mem, h]
    rfl

/-! ### The output range of an abandoned command -/

/-- The output range of a legal command that passes R183 and R184 is left open (R211). -/
theorem abandonedLen_of_inRange {s : State} {i : Instr} (hdec : decode s.latch.word = .ok i)
    (hin : s.latch.inRange s.params.memSize (outLenOf i s.latch) = true) : s.abandonedLen = outLenOf i s.latch := by
  rw [State.abandonedLen, hdec]
  exact if_pos hin

/-- A command that fails R183 or R184 leaves no byte open (R211). -/
theorem abandonedLen_of_not_inRange {s : State} {i : Instr} (hdec : decode s.latch.word = .ok i)
    (hin : ¬s.latch.inRange s.params.memSize (outLenOf i s.latch) = true) : s.abandonedLen = 0 := by
  rw [State.abandonedLen, hdec]
  exact if_neg hin

/-- An illegal word leaves no byte open (log 12). -/
theorem abandonedLen_of_illegal {s : State} {e : DecodeError} (hdec : decode s.latch.word = .error e) :
    s.abandonedLen = 0 := by
  rw [State.abandonedLen, hdec]

/-- Settles O3, by whether the command's two range checks pass. -/
theorem resetDuringACommandLeavesOnlyItsOutputRangeOpen :
    Obligations.ResetDuringACommandLeavesOnlyItsOutputRangeOpen := by
  intro s i ht hb hdec
  refine ⟨_, step_assertRst ht, rfl, rfl, rfl, fun hsrc hdst a => ?_, fun hout a => ?_⟩
  · have hlen : s.popTurn.abandonedLen = outLenOf i s.latch :=
      abandonedLen_of_inRange hdec (Latch.inRange_eq_true.2 ⟨hsrc, hdst⟩)
    simp [read_assertRst, hlen, hb]
  · have hlen : s.popTurn.abandonedLen = 0 :=
      abandonedLen_of_not_inRange hdec fun hin => by
        obtain ⟨hsrc, hdst⟩ := Latch.inRange_eq_true.1 hin
        exact hout.elim (Nat.not_lt.2 hsrc) (Nat.not_lt.2 hdst)
    rw [assertRst_mem_of_abandonedLen_eq_zero hlen, State.popTurn_mem]

/-- Settles O4: an illegal word has no output range to leave open. -/
theorem resetDuringAnIllegalWordKeepsMem : Obligations.ResetDuringAnIllegalWordKeepsMem :=
  fun s _ ht _ hdec => ⟨_, step_assertRst ht, rfl, rfl, rfl,
    assertRst_mem_of_abandonedLen_eq_zero (abandonedLen_of_illegal (s := s.popTurn) hdec)⟩

/-! ### While RST is asserted -/

/-- `RWR` while RST is asserted has no effect (R210). -/
theorem hostOp_rwr_inReset {s : State} (hr : s.rst = true) (wd : Width) (o : Nat) (w : Word) :
    s.hostOp (.rwr wd o w) = s.advance :=
  congrArg State.advance (if_pos hr)

/-- While RST is asserted a host access returns or draws free values and does nothing else (R210). -/
theorem HostEffect.inReset {s t : State} (h : HostEffect s t) (hr : s.rst = true) :
    t = { s with reads := t.reads, draws := t.draws } := by
  cases h with
  | store hrst | clear hrst | violate hrst | maybeViolate hrst | mem hrst => exact absurd hr (by simp [hrst])
  | none | read | drawWord | drawByte | drawn => rfl

/-- At its reset value STATUS reports no command in flight (R210). -/
theorem State.AtResetValues.busy {s : State} (h : s.AtResetValues) : s.status.busy = false := by
  rw [← s.status.getLsbD_word_zero, h.status]
  rfl

/-- The host's turn leaves the reset values as they are while RST is asserted (R210). -/
theorem State.AtResetValues.hostStep {s : State} (h : s.AtResetValues) (hr : s.rst = true) : s.hostStep.AtResetValues := by
  obtain ⟨t, pc, heffect, heq⟩ := hostStep_eq s
  rw [heq, heffect.inReset hr]
  exact h.withMemHost s.mem pc t.reads s.sched t.draws

/-- While RST is asserted every step keeps the reset values, by whose turn it is (R210). -/
theorem State.AtResetValues.step {s t : State} (h : s.AtResetValues) (hr : s.rst = true) (hst : step s = .next t) :
    t.AtResetValues := by
  have hpop : s.popTurn.AtResetValues := h.withMemHost s.mem s.pc s.reads s.sched.tail s.draws
  rcases step_cases s with ⟨-, hs⟩ | ⟨-, -, hs⟩ | ⟨-, hb, -⟩ | ⟨-, hs⟩ | ⟨ht, -⟩
  · obtain rfl := Host.Outcome.next.inj (hs.symm.trans hst)
    exact hpop.hostStep hr
  · obtain rfl := Host.Outcome.next.inj (hs.symm.trans hst)
    exact hpop
  · exact absurd hb (by simp [h.busy])
  · obtain rfl := Host.Outcome.next.inj (hs.symm.trans hst)
    exact atResetValues_resetRegs _ true
  · obtain rfl := Host.Outcome.next.inj ((step_deassertRst ht hr).symm.trans hst)
    exact atResetValues_resetRegs _ false

/-- What the step that asserts or deasserts RST leaves (R210, R212). -/
theorem step_of_atReset {s : State} (h : s.AtReset) :
    ∃ t, step s = .next t ∧ t.AtResetValues ∧ t.status.busy = false ∧ t.params = s.params ∧
      (s.turn = .assertRst ↔ t.rst = true) ∧ (s.turn = .deassertRst ∨ s.status.busy = false → t.mem = s.mem) := by
  rcases h with ht | ⟨ht, hr⟩
  · obtain ⟨hparams, -⟩ := assertRst_keepsConstants s.popTurn
    refine ⟨_, step_assertRst ht, atResetValues_resetRegs _ true, rfl, hparams, iff_of_true ht rfl, ?_⟩
    rintro (hd | hb)
    · simp [ht] at hd
    · exact assertRst_mem_of_idle hb
  · exact ⟨_, step_deassertRst ht hr, atResetValues_resetRegs _ false, rfl, rfl,
      iff_of_false (by simp [ht]) Bool.false_ne_true, fun _ => rfl⟩

/-- Settles O2: the two steps of the reset input, the accesses in reset, and the steps between. -/
theorem rstReturnsEveryRegisterToItsResetValue : Obligations.RstReturnsEveryRegisterToItsResetValue :=
  ⟨fun _ => step_of_atReset,
    fun _ hr => ⟨hostOp_rwr_inReset hr, hostOp_mwr_inReset hr, fun _ _ => hostOp_rrd_free (.inl hr),
      fun _ => hostOp_mrd_free (.inl hr)⟩,
    fun _ _ hr h hst => h.step hr hst⟩

end Sys2Proof.Machine
end

section
/-! PROOF. A command from its issue to its completion: polling, the completion right after the issue, and the completion under
every schedule without a reset (O41, O42, O46). -/

namespace Sys2Proof.Machine

/-! ### Polling -/

/-- Settles O42: a STATUS read returns its word, whose low two bits are BUSY and DONE. -/
theorem statusReadsReportTheCommandInFlight : Obligations.StatusReadsReportTheCommandInFlight :=
  fun s hr => ⟨s.status.word, congrArg State.reads (hostOp_read hr .status), s.status.getLsbD_word 0,
    s.status.getLsbD_word 1⟩

/-! ### Runs -/

/-- A run begins with its first step. -/
theorem run_succ {s t : State} (hst : step s = .next t) (k : Nat) : core.run (k + 1) s = core.run k t := by
  have hstep : core.step s = .next t := hst
  simp only [Host.Core.run, hstep]

/-- A run of one step is that step. -/
theorem run_one (s : State) : core.run 1 s = step s := by
  obtain ⟨t, hst⟩ := step_next s
  rw [run_succ hst, hst]
  rfl

/-- Settles O41: the host's line issues the word, and the engine's turn after it runs the word's instruction. -/
theorem completionMayFollowTheIssueAtOnce : Obligations.CompletionMayFollowTheIssueAtOnce := by
  intro s i rest hsched hline hr hb
  have hturn : s.turn = .host := by rw [State.turn, hsched]
  have hissue : step s = .next (s.popTurn.issue (encode i)).advance := by
    rw [step_hostOp ⟨hturn, hline⟩, hostOp_write_idle (s := s.popTurn) hr hb]
    rfl
  have hengine : (s.popTurn.issue (encode i)).advance.turn = .engine := by simp [State.turn, hsched]
  have hlatched : decode (s.popTurn.issue (encode i)).advance.latch.word = .ok i := by simp
  have hrest : (s.popTurn.issue (encode i)).advance.popTurn = { (s.issue (encode i)).advance with sched := rest } :=
    congrArg (fun turns => { (s.issue (encode i)).advance with sched := turns.tail.tail }) hsched
  rw [run_succ hissue, run_one, stepRunsTheLatchedCommand.1 _ i ⟨hengine, rfl⟩ hlatched, hrest]

/-! ### The command in flight until its completion -/

/-- `t` has the command of `s` in flight, with the operands and the MEM it had in `s`, and no reset came between. -/
structure State.SameFlight (s t : State) : Prop where
  busy : t.status.busy = true
  rst : t.rst = s.rst
  latch : t.latch = s.latch
  mem : t.mem = s.mem
  params : t.params = s.params

theorem State.SameFlight.trans {s t u : State} (h : s.SameFlight t) (h' : t.SameFlight u) : s.SameFlight u :=
  ⟨h'.busy, h'.rst.trans h.rst, h'.latch.trans h.latch, h'.mem.trans h.mem, h'.params.trans h.params⟩

/-- The result of the command in flight was fixed at its issue (R38, R71). -/
theorem State.SameFlight.latchedResult_eq {s t : State} (h : s.SameFlight t) : latchedResult t = latchedResult s :=
  latchedResult_congr h.latch h.mem h.params

theorem sameFlight_popTurn {s : State} (hb : s.status.busy = true) : s.SameFlight s.popTurn :=
  ⟨hb, rfl, rfl, rfl, rfl⟩

/-- No line of the host program disturbs the command in flight (R38, R39, R71). -/
theorem sameFlight_hostOp {s : State} (hb : s.status.busy = true) (op : HostOp) : s.SameFlight (s.hostOp op) := by
  obtain ⟨t, pc, heffect, heq⟩ := hostOp_eq s op
  obtain ⟨hlatch, hmem, hparams, hbusy, hrst, -⟩ := heffect.busy_frame hb
  rw [heq]
  exact ⟨hbusy, hrst, hlatch, hmem, hparams⟩

/-- A step that is neither its completion nor a reset leaves the command in flight. -/
theorem sameFlight_step {s t : State} (hst : step s = .next t) (hb : s.status.busy = true) (hreset : ¬s.AtReset)
    (hcompl : ¬s.AtCompletion) : s.SameFlight t := by
  rcases step_of_not_completion_not_reset hst hreset hcompl with rfl | ⟨op, -, rfl⟩
  · exact sameFlight_popTurn hb
  · exact (sameFlight_popTurn hb).trans (sameFlight_hostOp (s := s.popTurn) hb op)

theorem turn_ne_assertRst {s : State} (h : Turn.assertRst ∉ s.sched) : s.turn ≠ .assertRst := by
  unfold State.turn
  split
  · rename_i turn rest hsched
    rintro rfl
    exact h (by simp [hsched])
  · split <;> simp

/-- With no turn left, a command in flight completes at the next step (log 2). -/
theorem atCompletion_of_sched_nil {s : State} (hb : s.status.busy = true) (h : s.sched = []) : s.AtCompletion :=
  ⟨by rw [State.turn, h]; exact if_pos hb, hb⟩

/-- Unless RST intervenes the command in flight completes, at the latest once the schedule is used up (R226), with the result
it has now. -/
theorem run_to_completion {s : State} (hb : s.status.busy = true) (hr : s.rst = false) (hno : Turn.assertRst ∉ s.sched) :
    ∃ k u, k ≤ s.sched.length + 1 ∧ s.SameFlight u ∧ core.run k s = .next (u.complete (latchedResult s)) := by
  induction hn : s.sched generalizing s with
  | nil =>
    exact ⟨1, s.popTurn, le_rfl, sameFlight_popTurn hb,
      (run_one s).trans (step_complete_latchedResult (atCompletion_of_sched_nil hb hn))⟩
  | cons turn rest ih =>
    by_cases hcompl : s.AtCompletion
    · exact ⟨1, s.popTurn, by simp, sameFlight_popTurn hb, (run_one s).trans (step_complete_latchedResult hcompl)⟩
    have hreset : ¬s.AtReset := by
      rintro (ht | ⟨-, hrst⟩)
      · exact turn_ne_assertRst hno ht
      · simp [hr] at hrst
    obtain ⟨t, hst, -, -, hsched, -⟩ := stepsNeverStopAndKeepTheParameters s
    have hrest : t.sched = rest := by rw [hsched, hn, List.tail_cons]
    have hflight := sameFlight_step hst hb hreset hcompl
    obtain ⟨k, u, hk, hu, hrun⟩ := ih hflight.busy (hflight.rst.trans hr)
      (fun hmem => hno (by rw [hn]; exact List.mem_cons_of_mem _ (hrest ▸ hmem))) hrest
    exact ⟨k + 1, u, Nat.succ_le_succ hk, hflight.trans hu, by rw [run_succ hst, hrun, hflight.latchedResult_eq]⟩

/-- Settles O46: the run reaches the completion step, whose result is `Execute(L)` at the start. -/
theorem issuedCommandsCompleteAsIssued : Obligations.IssuedCommandsCompleteAsIssued := by
  rintro s hb hno hr r rfl
  obtain ⟨k, u, hk, hu, hrun⟩ := run_to_completion hb hr hno
  obtain ⟨hlen, hmem⟩ := complete_output u (latchedResult s)
  rw [hu.mem, hu.latch] at hmem
  rw [specExecute_eq_latchedResult]
  refine ⟨k, _, hk, hrun, ?_⟩
  rw [complete_status]
  exact ⟨rfl, rfl, rfl, rfl, rfl, hlen, hmem⟩

end Sys2Proof.Machine
end
